-- ==== Sys2Proof/Word.lean ====
section
/-! DEFINITION. The plain numbers of the ZG16 (R1, R16, R17, R73, R151): bytes, interval numbers,
slots, tags, bands, stations, subchannels, quality indexes, terminal identities, and the two
directions. -/
namespace Sys2Proof

/-- One byte of a payload or of the profile memory (R162). -/
abbrev Byte := BitVec 8

/-- An interval number, 0 to 4095; its arithmetic wraps (00_scope.md, Conventions). -/
abbrev Interval := Fin 4096

/-- A slot of the context table, 0 to 95 (R16). -/
abbrev Slot := Fin 96

/-- A tag, 0 to 255 (R17). -/
abbrev Tag := Fin 256

/-- A band, 0 to 5 (R1). -/
abbrev Band := Fin 6

/-- A station number, 0 to 15; 15 as a destination means all stations. -/
abbrev Station := Fin 16

/-- A subchannel of one direction's grid, 0 to 47 (R1). -/
abbrev Subchannel := Fin 48

/-- A quality index, 0 to 15 (R96). -/
abbrev Quality := Fin 16

/-- A class, 0 to 3 (R15). -/
abbrev ServiceClass := Fin 4

/-- A 24-bit terminal identity (R15). -/
abbrev Identity := BitVec 24

/-- The downlink or the uplink grid (R1). -/
inductive Direction where
  | dl
  | ul
deriving DecidableEq, Repr

end Sys2Proof
end

