-- ==== Sys2Proof/Syntax.lean ====
section
/-! DEFINITION. The commands of the ZG16: one constructor per row of spec/opcode_table.json, in the
table's order. A row's operands are what its event samples from outside the part, or the one item
(slot, tag, band, interval) the step is about; the telegram rows act on the head of the receive
buffer and have none. -/
namespace Sys2Proof

/-- The steps of the part (spec/opcode_table.json, spec/95_what_each_step_holds.md). -/
inductive Instr where
  /-- HARDWARE_RESET (R178): RESET_N is low. -/
  | hardwareReset
  /-- LOADING (R172): RESET_N rises; `straps` is what the four station straps read. -/
  | loading (straps : Station)
  /-- PROFILE_LOAD (R173): the profile read is complete; `image` holds the bytes from offset 0. -/
  | profileLoad (image : List Byte)
  /-- SPULSE_EDGE (R4): a rising edge on SPULSE; `mark` is the level of SMARK at the edge. -/
  | spulseEdge (mark : Bool)
  /-- PULSE_LOSS (R8): 3 ms have passed since the latest pulse taken. -/
  | pulseLoss
  /-- ADMISSION_HOLD_END (R22). -/
  | admissionHoldEnd (slot : Slot)
  /-- SILENCE_TIMEOUT (R25). -/
  | silenceTimeout (slot : Slot)
  /-- DORMANCY (R27). -/
  | dormancy (slot : Slot)
  /-- QUARANTINE_END (R18). -/
  | quarantineEnd (tag : Tag)
  /-- SOUND_PENDING_EXPIRY (R61). -/
  | soundPendingExpiry (slot : Slot)
  /-- BAND_HELD (R81). -/
  | bandHeld (band : Band)
  /-- REFRESH_CLAIM (R82). -/
  | refreshClaim (band : Band)
  /-- SETTLE_END (R85). -/
  | settleEnd (band : Band)
  /-- CLAIM_TRANSMIT_LIMIT (R79). -/
  | claimTransmitLimit (band : Band)
  /-- LAST_ASSERT_EXPIRY (R77). -/
  | lastAssertExpiry (band : Band)
  /-- NEIGHBOUR_ENTRY_EXPIRY (R91). -/
  | neighbourEntryExpiry (band : Band)
  /-- LISTENING_END (R175). -/
  | listeningEnd
  /-- RESET_SEQUENCE_TIMEOUT (R177). -/
  | resetSequenceTimeout
  /-- PLACEMENT_BEGIN (R113). -/
  | placementBegin
  /-- DATA_GRANT (R122). -/
  | dataGrant
  /-- FALLBACK_GRANT (R125). -/
  | fallbackGrant
  /-- PLACEMENT_COMPLETION (R130). -/
  | placementCompletion
  /-- IDLE_RELEASE (R85). -/
  | idleRelease (band : Band)
  /-- GRANT_LIST_DEADLINE (R141) of interval `t`. -/
  | grantListDeadline (t : Interval)
  /-- CLOSE_BY_TIMEOUT (R144) of interval `t` and direction `d`. -/
  | closeByTimeout (t : Interval) (d : Direction)
  /-- FRAME_RECEIVED (R155): the cells of a frame as read from the bus, start cell first;
  `true` is recessive (1), `false` dominant (0) (R151). -/
  | frameReceived (cells : List Bool)
  /-- ATTACH (R43), taken from the head of the receive buffer. -/
  | attach
  /-- DETACH (R48). -/
  | detach
  /-- QUALITY (R49). -/
  | quality
  /-- RANGE (R52). -/
  | range
  /-- BUFFER (R54). -/
  | buffer
  /-- USAGE (R142). -/
  | usage
  /-- CLAIM (R87). -/
  | claim
  /-- BAND_RELEASE (R91). -/
  | bandRelease
  /-- ADMIT (R35). -/
  | peerAdmit
  /-- QUERY_BY_TAG (R164). -/
  | queryByTag
  /-- QUERY_OF_STATION (R165). -/
  | queryOfStation
  /-- RELEASE (R33). -/
  | release
  /-- RETRAIN (R33). -/
  | retrain
  /-- CLEAR (R170). -/
  | clear
  /-- RESET (R177). -/
  | reset
  /-- FRAME_TRANSMIT_START (R152): the bus has fallen idle; `bus` is what is read back over the nine
  cells of kind and source, the first cell in the highest bit. -/
  | frameTransmitStart (bus : BitVec 9)
  /-- FRAME_SENT (R153): the end cell of the frame on the wire has passed. -/
  | frameSent
  /-- TRANSMIT_ERROR (R153): a cell of the frame on the wire is read back differently. -/
  | transmitError
deriving DecidableEq, Repr

end Sys2Proof
end

