-- ==== Sys2Proof/Decode.lean ====
section
/-! DEFINITION. No row of spec/opcode_table.json gives bits ("fields": [] throughout): the commands are
events, not words. So no word spells a command. Frames and payloads, which do have bits (R151, R162), are
read and written in Machine/Operands.lean. -/
namespace Sys2Proof

/-- The command that a word spells by the table's bits: the table gives none. -/
def decodeTableWord (_nbits _w : Nat) : Option Instr := none

end Sys2Proof
end

