-- ==== Sys2Proof/Config.lean ====
section
/-! DEFINITION. What the spec leaves open as a value: the contents of the station STATUS fields that belong to
something absent (R162, R165). Each is an uninterpreted constant, read with the counter `freeCount` and the
band. -/
namespace Sys2Proof

/-- FREE VALUE: bits 11-0 of a band group's first field while the announcement interval is absent
(log entry 10). -/
opaque Config.absentAnnouncement : Nat → Band → BitVec 12

/-- FREE VALUE: the entry station while the band has no neighbour entry (log entry 10). -/
opaque Config.absentEntryStation : Nat → Band → BitVec 4

/-- FREE VALUE: the entry announcement interval while the band has no neighbour entry (log entry 10). -/
opaque Config.absentEntryInterval : Nat → Band → BitVec 12

/-- FREE VALUE: the entry age while the band has no neighbour entry (log entry 10). -/
opaque Config.absentEntryAge : Nat → Band → BitVec 8

end Sys2Proof
end

