-- ==== Sys2Proof/Machine/State.lean ====
section
/-! DEFINITION. The state of the ZG16: every piece of state the chapters give its blocks, plain data, with the
values after a hardware reset; the model's own fields (`agenda`, `deadlinesDue`, `closesDue`, `placementsDue`,
`freeCount`, `pending`) are marked. Log entries: notes/assumptions/. -/
namespace Sys2Proof.Machine

/-- One value per direction. -/
structure Both (α : Type) where
  dl : α
  ul : α
deriving DecidableEq, Repr

/-- The value of a direction. -/
def Both.at {α : Type} (b : Both α) : Direction → α
  | .dl => b.dl
  | .ul => b.ul

/-- The pair with one direction's value replaced. -/
def Both.put {α : Type} (b : Both α) (d : Direction) (v : α) : Both α :=
  match d with
  | .dl => { b with dl := v }
  | .ul => { b with ul := v }

/-- The station states of R175. -/
inductive StationState where
  | loading
  | halted
  | syncing
  | listening
  | running
  | suspended
deriving DecidableEq, Repr

/-- The resume state of R176, where present. -/
inductive Resume where
  | listening
  | running
deriving DecidableEq, Repr

/-- The lifecycle states of a context (R15). -/
inductive Life where
  | free
  | admitting
  | active
  | dormant
  | recovery
deriving DecidableEq, Repr

/-- The kind of a terminal (R15). -/
inductive TerminalKind where
  | fixed
  | nomadic
deriving DecidableEq, Repr

/-- The reach of a context (R56). -/
inductive Reach where
  | near
  | far
deriving DecidableEq, Repr

/-- A visiting order (R12). -/
inductive VisitOrder where
  | sequential
  | interleaved
deriving DecidableEq, Repr

/-- A rounding mode (R99). -/
inductive Rounding where
  | nearest
  | towardZero
  | up
  | down
deriving DecidableEq, Repr

/-- A silence code (R23). -/
inductive SilenceCode where
  | a
  | b
  | c
  | d
deriving DecidableEq, Repr

/-- The reasons of release (R30). -/
inductive ReleaseReason where
  | detached
  | lost
  | handedOver
  | forced
  | outOfRange
deriving DecidableEq, Repr

/-- The reasons of an ATTACH REFUSE (R46). -/
inductive RefuseReason where
  | rangeOut
  | tableFull
deriving DecidableEq, Repr

/-- The own claim states (R73). -/
inductive ClaimState where
  | free
  | announced
  | held
  | releasing
deriving DecidableEq, Repr

/-- The telegram kinds (R154). -/
inductive Kind where
  | claim
  | bandRelease
  | admission
  | grantList
  | usage
  | attach
  | range
  | quality
  | buffer
  | detach
  | tagAssign
  | attachRefuse
  | releaseNotice
  | query
  | release
  | retrain
  | clear
  | reset
  | status
  | alert
deriving DecidableEq, Repr

/-- The sixteen conditions, in the order of their numbers 0 to 15 (R167). -/
inductive Condition where
  | overflow
  | divzero
  | underflow
  | stale
  | tableFull
  | rangeOut
  | lostFixed
  | claimLost
  | lateList
  | usageTimeout
  | recordsFull
  | rxOverrun
  | txFail
  | timingFault
  | reachChange
  | tagUnknown
deriving DecidableEq, Repr

/-- The profile record (R173). -/
structure Profile where
  partner : Station
  management : Station
  neighbourMask : BitVec 16
  quota : Nat
  soundingUnits : Nat
  rounding : Rounding
  smoothing : Nat
  derate : Nat
  orders : Both VisitOrder
  silenceFixed : SilenceCode
  silenceNomadic : SilenceCode
  horizon : Nat
  farTa : Nat
  farQ : Nat
  taLimit : Nat
  drift : Nat
  dormancyTime : Nat
  initialAverage : Nat
  alertMask : BitVec 16
deriving DecidableEq, Repr

/-- The record's values from a hardware reset until a good load: the defaults, 0 where R173 gives none. -/
def Profile.default : Profile where
  partner := 0
  management := 0
  neighbourMask := 0
  quota := 2
  soundingUnits := 2
  rounding := .nearest
  smoothing := 6
  derate := 3
  orders := ⟨.interleaved, .sequential⟩
  silenceFixed := .c
  silenceNomadic := .b
  horizon := 100
  farTa := 600
  farQ := 3
  taLimit := 900
  drift := 8
  dormancyTime := 500
  initialAverage := 16384
  alertMask := 0

/-- A subscriber context (R15). -/
structure Context where
  life : Life
  identity : Option Identity
  tag : Option Tag
  kind : TerminalKind
  cls : ServiceClass
  reach : Reach
  ta : Nat
  attachQuality : Quality
  admitted : Interval
  q : Option (Vector Quality 6)
  qWide : Quality
  age : Nat
  sound : Option Nat
  backlog : Both Nat
  pending : Both Nat
  average : Both Nat
  silence : Nat
  dormancy : Nat
  hold : Nat
  rangeRepeat : Nat
  retrain : Bool
deriving DecidableEq, Repr

/-- A FREE context, with the values of R38. -/
def Context.free : Context where
  life := .free
  identity := none
  tag := none
  kind := .fixed
  cls := 0
  reach := .near
  ta := 0
  attachQuality := 0
  admitted := 0
  q := none
  qWide := 0
  age := 0
  sound := none
  backlog := ⟨0, 0⟩
  pending := ⟨0, 0⟩
  average := ⟨0, 0⟩
  silence := 0
  dormancy := 0
  hold := 0
  rangeRepeat := 0
  retrain := false

/-- An entry of the tag map (R17). The valid flag is `slot.isSome` (log entry 22). -/
structure TagEntry where
  slot : Option Slot
  quarantine : Nat
deriving DecidableEq, Repr

/-- An own claim record (R73). -/
structure OwnClaim where
  state : ClaimState
  announced : Option Interval
  phase : Option Nat
  outstanding : Option Interval
  backoff : Nat
  idle : Nat
  lastAssert : Option Interval
deriving DecidableEq, Repr

/-- An own claim record after either reset (R95). -/
def OwnClaim.reset : OwnClaim where
  state := .free
  announced := none
  phase := none
  outstanding := none
  backoff := 0
  idle := 0
  lastAssert := none

/-- A peer entry of the neighbour map (R74). -/
structure PeerEntry where
  station : Station
  interval : Interval
  age : Nat
deriving DecidableEq, Repr

/-- A grant record (R122, R136). `size` is L, `count` is k, `quality` is q'. -/
structure Record where
  interval : Interval
  dir : Direction
  slot : Slot
  tag : Tag
  band : Band
  start : Subchannel
  size : Nat
  count : Nat
  order : VisitOrder
  reach : Reach
  quality : Quality
  granted : Nat
  carrier : Option Nat
  delivered : Option Nat
  orphan : Bool
deriving DecidableEq, Repr

/-- The close causes (R137). -/
inductive CloseCause where
  | last
  | timeout
deriving DecidableEq, Repr

/-- An entry of the open-interval list (R137). -/
structure OpenInterval where
  interval : Interval
  dir : Direction
  cause : Option CloseCause
deriving DecidableEq, Repr

/-- The states of a GRANT LIST telegram in the grant list register (R137). -/
inductive ListState where
  | queued
  | sent
  | withdrawn
  | dropped
deriving DecidableEq, Repr

/-- An entry of the grant list register (R137): the telegram of sequence number n stands at position n.
`late` says whether LATE_LIST was raised for the interval (R141). -/
structure RegisterEntry where
  interval : Interval
  telegrams : List ListState
  late : Bool
deriving DecidableEq, Repr

/-- The block a telegram's fate is reported to (R160), with what it needs to know which offer it was.
`disowned` is a CLAIM or GRANT LIST whose owner has already dropped the matter (log entry 14). -/
inductive Owner where
  | claim (band : Band)
  | bandRelease (band : Band) (ofResetSequence : Bool)
  | grantList (t : Interval) (seq : Nat)
  | unreported
  | disowned
deriving DecidableEq, Repr

/-- A telegram of the transmit queue (R157 to R160). -/
structure TxTelegram where
  kind : Kind
  dest : Station
  payload : List Byte
  owner : Owner
  attempts : Nat
  onWire : Bool
  removal : Bool
deriving DecidableEq, Repr

/-- A kept telegram of the receive buffer (R156). -/
structure RxTelegram where
  kind : Kind
  source : Station
  payload : List Byte
deriving DecidableEq, Repr

/-- The state of a unit of an occupancy grid (R3). -/
inductive UnitState where
  | free
  | reserved
  | occupied
deriving DecidableEq, Repr

/-- An occupancy grid of one direction (R3). -/
abbrev Grid := Vector UnitState 48

/-- A candidate copy of the snapshot (R114). -/
structure Candidate where
  slot : Slot
  tag : Tag
  reach : Reach
  cls : ServiceClass
  q : Vector Quality 6
  average : Nat
  backlog : Nat
  stale : Bool
deriving DecidableEq, Repr

/-- The copied state of a band (R115). -/
structure BandCopy where
  own : ClaimState
  entry : Bool
deriving DecidableEq, Repr

/-- A ranked candidate: its copy, its best metric, and its allowed bands with the derated quality of each, in
the order in which it tries them (R118). -/
structure Ranked where
  cand : Candidate
  best : Nat
  bands : List (Band × Quality)
deriving DecidableEq, Repr

/-- How far the placing of a placement in flight has come (Placement, table of stages). -/
inductive Stage where
  /-- The fresh candidates of the direction are to be ranked. -/
  | rank (d : Direction)
  /-- The ranked candidates still to be served. -/
  | serve (d : Direction) (left : List Ranked)
  /-- The slots the fallback walk still has to examine. -/
  | walk (d : Direction) (left : List Slot)
  /-- Placing has ended. -/
  | ended
deriving DecidableEq, Repr

/-- A data grant of the placement in flight, as its entry will carry it (R128). -/
structure Grant where
  dir : Direction
  slot : Slot
  tag : Tag
  band : Band
  start : Subchannel
  size : Nat
  count : Nat
  order : VisitOrder
  reach : Reach
  quality : Quality
deriving DecidableEq, Repr

/-- A placement in flight (R113 to R116): target interval, snapshot, grids, chosen entries, stage, grants
made in order. -/
structure Flight where
  target : Interval
  candidates : Both (List Candidate)
  bands : Vector BandCopy 6
  grids : Both Grid
  ranges : List Tag
  sounds : List (Tag × Subchannel)
  stage : Stage
  grants : List Grant
deriving DecidableEq, Repr

/-- An item of the latest event's work that is still to be done, one kind per threshold row of the table; the
claim decision waits there for the idle releases of its completion (log entry 1). -/
inductive Due where
  | admissionHoldEnd (slot : Slot)
  | silenceTimeout (slot : Slot)
  | dormancy (slot : Slot)
  | quarantineEnd (tag : Tag)
  | soundPendingExpiry (slot : Slot)
  | bandHeld (band : Band)
  | refreshClaim (band : Band)
  | settleEnd (band : Band)
  | claimTransmitLimit (band : Band)
  | lastAssertExpiry (band : Band)
  | neighbourEntryExpiry (band : Band)
  | listeningEnd
  | resetSequenceTimeout
  | idleRelease (band : Band)
  | newClaim
deriving DecidableEq, Repr

/-- The state of the part. INVENTORY.md names the rule of each field. -/
@[ext]
structure State where
  resetN : Bool
  ownStation : Station
  profile : Profile
  station : StationState
  resume : Option Resume
  listening : Nat
  resetSeq : Option Nat
  interval : Interval
  synced : Bool
  contexts : Vector Context 96
  tags : Vector TagEntry 256
  tagPtr : Tag
  refreshPtr : Slot
  claims : Vector OwnClaim 6
  farDemand : Nat
  spacing : Nat
  neighbours : Vector (Option PeerEntry) 6
  cause : BitVec 4
  inFlight : BitVec 4
  flight : Option Flight
  placementsDue : List Interval
  fallbackPtr : Both Slot
  records : List Record
  openIntervals : List OpenInterval
  register : List RegisterEntry
  deadlinesDue : List Interval
  closesDue : List (Interval × Direction)
  txQueue : List TxTelegram
  rxBuffer : List RxTelegram
  flags : BitVec 16
  agenda : List Due
  freeCount : Nat
  pending : List Instr
deriving DecidableEq, Repr

/-- The part with RESET_N low: every block at its hardware reset values (R178; R38, R71, R95, R112, R134,
R149, R161, R171). The own station number is not read yet: DESIGN CHOICE 0 (log entry 4). -/
def State.reset : State where
  resetN := false
  ownStation := 0
  profile := Profile.default
  station := .loading
  resume := none
  listening := 0
  resetSeq := none
  interval := 0
  synced := false
  contexts := Vector.replicate 96 Context.free
  tags := Vector.replicate 256 ⟨none, 0⟩
  tagPtr := 0
  refreshPtr := 0
  claims := Vector.replicate 6 OwnClaim.reset
  farDemand := 0
  spacing := 0
  neighbours := Vector.replicate 6 none
  cause := 0
  inFlight := 0
  flight := none
  placementsDue := []
  fallbackPtr := ⟨0, 0⟩
  records := []
  openIntervals := []
  register := []
  deadlinesDue := []
  closesDue := []
  txQueue := []
  rxBuffer := []
  flags := 0
  agenda := []
  freeCount := 0
  pending := []

/-- Why a command could stop the machine: nothing does. The spec gives every event an effect (a condition, a
discarded telegram, the HALTED state), so no meaning raises a fault; there is nothing safe or unsafe to mark. -/
inductive Fault where
deriving DecidableEq, Repr

/-- Why a command has no meaning. -/
inductive Refusal where
  /-- Raised by an arm of `exec` for a row without a meaning yet. Safe. No arm raises it. -/
  | notModelled (mnemonic : String)
deriving DecidableEq, Repr

section Updates
variable (s : State)

/-- Named updates of single fields; Laws/State.lean says what each leaves alone. -/
def State.setResetN (v : Bool) : State := { s with resetN := v }
def State.setOwnStation (v : Station) : State := { s with ownStation := v }
def State.setProfile (v : Profile) : State := { s with profile := v }
def State.setStation (v : StationState) : State := { s with station := v }
def State.setResume (v : Option Resume) : State := { s with resume := v }
def State.setListening (v : Nat) : State := { s with listening := v }
def State.setResetSeq (v : Option Nat) : State := { s with resetSeq := v }
def State.setInterval (v : Interval) : State := { s with interval := v }
def State.setSynced (v : Bool) : State := { s with synced := v }
def State.setContexts (v : Vector Context 96) : State := { s with contexts := v }
def State.setTags (v : Vector TagEntry 256) : State := { s with tags := v }
def State.setTagPtr (v : Tag) : State := { s with tagPtr := v }
def State.setRefreshPtr (v : Slot) : State := { s with refreshPtr := v }
def State.setClaims (v : Vector OwnClaim 6) : State := { s with claims := v }
def State.setFarDemand (v : Nat) : State := { s with farDemand := v }
def State.setSpacing (v : Nat) : State := { s with spacing := v }
def State.setNeighbours (v : Vector (Option PeerEntry) 6) : State := { s with neighbours := v }
def State.setCause (v : BitVec 4) : State := { s with cause := v }
def State.setInFlight (v : BitVec 4) : State := { s with inFlight := v }
def State.setFlight (v : Option Flight) : State := { s with flight := v }
def State.setPlacementsDue (v : List Interval) : State := { s with placementsDue := v }
def State.setFallbackPtr (v : Both Slot) : State := { s with fallbackPtr := v }
def State.setRecords (v : List Record) : State := { s with records := v }
def State.setOpenIntervals (v : List OpenInterval) : State := { s with openIntervals := v }
def State.setRegister (v : List RegisterEntry) : State := { s with register := v }
def State.setDeadlinesDue (v : List Interval) : State := { s with deadlinesDue := v }
def State.setClosesDue (v : List (Interval × Direction)) : State := { s with closesDue := v }
def State.setTxQueue (v : List TxTelegram) : State := { s with txQueue := v }
def State.setRxBuffer (v : List RxTelegram) : State := { s with rxBuffer := v }
def State.setFlags (v : BitVec 16) : State := { s with flags := v }
def State.setAgenda (v : List Due) : State := { s with agenda := v }
def State.setFreeCount (v : Nat) : State := { s with freeCount := v }
def State.setPending (v : List Instr) : State := { s with pending := v }

end Updates

end Sys2Proof.Machine
end

