-- ==== Sys2Proof/Machine/Ops.lean ====
section
/-! DEFINITION. Named operations on the state's tables, interval order (R9), telegram kinds and classes (R154),
the transmit queue (R157, R158), and the geometry of blocks and visiting orders (R10 to R13). -/
namespace Sys2Proof.Machine

/-! ### Interval order (R9) -/

/-- The age of interval `a` at current interval `c`, 0 to 4095 (R9). -/
def age (c a : Interval) : Nat := (c - a).val

/-- `a1` is earlier than `a2` (R9). -/
def earlier (a1 a2 : Interval) : Bool := decide (1 ≤ (a2 - a1).val ∧ (a2 - a1).val ≤ 2047)

/-! ### Tables -/

/-- The context of a slot. -/
def State.ctx (s : State) (i : Slot) : Context := s.contexts[i]

/-- Write the context of one slot. -/
def State.putCtx (s : State) (i : Slot) (c : Context) : State := s.setContexts (s.contexts.set i c)

/-- The entry of a tag. -/
def State.tagEntry (s : State) (t : Tag) : TagEntry := s.tags[t]

/-- Write the entry of one tag. -/
def State.putTag (s : State) (t : Tag) (e : TagEntry) : State := s.setTags (s.tags.set t e)

/-- The own claim record of a band. -/
def State.own (s : State) (b : Band) : OwnClaim := s.claims[b]

/-- Write the own claim record of one band. -/
def State.putOwn (s : State) (b : Band) (c : OwnClaim) : State := s.setClaims (s.claims.set b c)

/-- The neighbour entry of a band, if any. -/
def State.neighbour (s : State) (b : Band) : Option PeerEntry := s.neighbours[b]

/-- Write or clear the neighbour entry of one band. -/
def State.putNeighbour (s : State) (b : Band) (e : Option PeerEntry) : State :=
  s.setNeighbours (s.neighbours.set b e)

/-- The slots in ascending order. -/
def allSlots : List Slot := List.finRange 96

/-- The tags in ascending order. -/
def allTags : List Tag := List.finRange 256

/-- The bands in ascending order. -/
def allBands : List Band := List.finRange 6

/-- The slots in ascending order from `p`, wrapping from 95 to 0 (R66, R124). -/
def slotsFrom (p : Slot) : List Slot := allSlots.map (fun i => p + i)

/-- The slot a valid tag names (R17). -/
def State.slotOf (s : State) (t : Tag) : Option Slot := (s.tagEntry t).slot

/-- The tag is unassigned (R17). -/
def TagEntry.unassigned (e : TagEntry) : Bool := e.slot.isNone && e.quarantine == 0

/-- The context is in use (R16). -/
def Context.inUse (c : Context) : Bool := decide (c.life ≠ .free)

/-- The number of slots in use (R16). -/
def State.contextsInUse (s : State) : Nat := (allSlots.filter fun i => (s.ctx i).inUse).length

/-- The station states in which the blocks act on telegrams and the bus interface transmits (R39, R87, R161,
R163): all but LOADING and HALTED. -/
def State.acting (s : State) : Bool :=
  match s.station with
  | .loading => false
  | .halted => false
  | .syncing => true
  | .listening => true
  | .running => true
  | .suspended => true

/-! ### Telegram kinds (R154) -/

/-- The 5-bit code of a kind (R154). -/
def Kind.code : Kind → Nat
  | .claim => 1
  | .bandRelease => 2
  | .admission => 3
  | .grantList => 5
  | .usage => 8
  | .attach => 9
  | .range => 10
  | .quality => 11
  | .buffer => 12
  | .detach => 13
  | .tagAssign => 16
  | .attachRefuse => 17
  | .releaseNotice => 18
  | .query => 20
  | .release => 21
  | .retrain => 22
  | .clear => 23
  | .reset => 24
  | .status => 28
  | .alert => 29

/-- The kind a code is assigned to, if any (R154). -/
def Kind.ofCode : Nat → Option Kind
  | 1 => some .claim
  | 2 => some .bandRelease
  | 3 => some .admission
  | 5 => some .grantList
  | 8 => some .usage
  | 9 => some .attach
  | 10 => some .range
  | 11 => some .quality
  | 12 => some .buffer
  | 13 => some .detach
  | 16 => some .tagAssign
  | 17 => some .attachRefuse
  | 18 => some .releaseNotice
  | 20 => some .query
  | 21 => some .release
  | 22 => some .retrain
  | 23 => some .clear
  | 24 => some .reset
  | 28 => some .status
  | 29 => some .alert
  | _ => none

/-- The priority class of a kind, 1 the highest (R154). -/
def Kind.priority : Kind → Nat
  | .claim | .bandRelease | .admission => 1
  | .grantList => 2
  | .usage | .attach | .range | .quality | .buffer | .detach => 3
  | .tagAssign | .attachRefuse | .releaseNotice => 4
  | .query | .release | .retrain | .clear | .reset => 5
  | .status | .alert => 6

/-! ### The transmit queue (R157, R158)

The list stands in order of offering, so within a class the first of the list is the oldest. -/

/-- The highest class present, as its number; 7 for an empty queue. -/
def firstClass (q : List TxTelegram) : Nat := q.foldr (fun t m => min t.kind.priority m) 7

/-- The telegram that is first in queue order (R157). -/
def firstInOrder (q : List TxTelegram) : Option TxTelegram :=
  q.find? fun t => t.kind.priority == firstClass q

/-- Rewrite the first element that satisfies `p`. -/
def updateFirst {α : Type} (p : α → Bool) (f : α → α) : List α → List α
  | [] => []
  | x :: xs => if p x then f x :: xs else x :: updateFirst p f xs

/-- Take the last element that satisfies `p` out of the list. -/
def takeLast {α : Type} (p : α → Bool) : List α → Option (α × List α)
  | [] => none
  | x :: xs =>
    match takeLast p xs with
    | some (v, rest) => some (v, x :: rest)
    | none => if p x then some (x, xs) else none

/-- The lowest-priority class among the telegrams that a newcomer of class `c` may evict; 0 if there is none
(R158: lower in priority than the newcomer's, leaving aside the telegram on the wire). -/
def victimClass (c : Nat) (q : List TxTelegram) : Nat :=
  q.foldr (fun t m => if !t.onWire && decide (c < t.kind.priority) then max t.kind.priority m else m) 0

/-- What becomes of an offered telegram (R158). -/
inductive Offered where
  | queued (q : List TxTelegram)
  | evicted (q : List TxTelegram) (victim : TxTelegram)
  | refused
deriving DecidableEq, Repr

/-- Offer a telegram to the queue (R158). -/
def admitToQueue (q : List TxTelegram) (t : TxTelegram) : Offered :=
  if q.length < 24 then .queued (q ++ [t])
  else
    match takeLast (fun x => !x.onWire && decide (t.kind.priority < x.kind.priority) &&
        x.kind.priority == victimClass t.kind.priority q) q with
    | some (v, rest) => .evicted (rest ++ [t]) v
    | none => .refused

/-- Ask the bus interface to remove the telegrams that satisfy `p` (R159): queued ones leave at once, one on
the wire is rewritten by `onWire`, which marks it. -/
def removeTelegrams (p : TxTelegram → Bool) (onWire : TxTelegram → TxTelegram) (q : List TxTelegram) :
    List TxTelegram :=
  (q.filter fun t => !(p t && !t.onWire)).map fun t => if p t then onWire t else t

/-- Mark a telegram on the wire for removal: it is not attempted again (R159). -/
def TxTelegram.marked (t : TxTelegram) : TxTelegram := { t with removal := true }

/-- Mark it, its owner having dropped the matter: its report will be ignored (R79, R148; log entry 14). -/
def TxTelegram.markedDisowned (t : TxTelegram) : TxTelegram :=
  { t with removal := true, owner := .disowned }

/-- A fresh telegram for the queue (R157). -/
def telegram (k : Kind) (dest : Station) (payload : List Byte) (owner : Owner) : TxTelegram :=
  { kind := k, dest := dest, payload := payload, owner := owner, attempts := 0, onWire := false,
    removal := false }

/-! ### Geometry of grants (R1, R10 to R13) -/

/-- The band of a subchannel (R1). -/
def bandOf (j : Nat) : Band := Fin.ofNat 6 (j / 8)

/-- The start offset of a grant (R11). -/
def startOffset (t : Interval) (slot : Slot) (size : Nat) : Nat := (t.val + slot.val) % size

/-- The position visited at step `i` (R12). -/
def visited (o : VisitOrder) (size s i : Nat) : Nat :=
  match o with
  | .sequential => (s + i) % size
  | .interleaved => s ^^^ i

/-- The subchannels a grant of `count` units covers (R13). -/
def covered (o : VisitOrder) (base size s count : Nat) : List Nat :=
  (List.range count).map fun i => base + visited o size s i

/-- The subchannels a grant or record covers, from the four values that describe it (R13). -/
def coveredOf (o : VisitOrder) (start size count : Nat) : List Nat :=
  covered o (start - start % size) size (start % size) count

/-- The unit is free (R3). -/
def isFree (g : Grid) (j : Nat) : Bool := g[j]? == some .free

/-- The block of `size` units at `base` is all free (R10). -/
def allFree (g : Grid) (base size : Nat) : Bool := (List.range size).all fun j => isFree g (base + j)

/-- The bases of the aligned blocks of a band, ascending (R10). -/
def blockBases (b : Band) (size : Nat) : List Nat :=
  (List.range (8 / size)).map fun m => 8 * b.val + m * size

/-- The lowest-indexed aligned all-free block of a size in a band (R10, R120). -/
def findBlock (g : Grid) (b : Band) (size : Nat) : Option Nat :=
  (blockBases b size).find? fun base => allFree g base size

/-- Pass units from free to occupied (R13). -/
def occupy (g : Grid) (units : List Nat) : Grid :=
  Vector.ofFn fun j => if units.contains j.val then .occupied else g[j]

/-- The unit `j` of the uplink is one of the `k` reserved sounding units 47, 46, 45, 44 (R2). -/
def soundingUnit (k j : Nat) : Bool := decide (48 - k ≤ j ∧ j ≤ 47)

/-- The two grids as a placement begins them (R3, R116). -/
def freshGrids (k : Nat) : Both Grid where
  dl := Vector.ofFn fun _ => .free
  ul := Vector.ofFn fun j => if soundingUnit k j.val then .reserved else .free

end Sys2Proof.Machine
end

