-- ==== Sys2Proof/Machine/Operands.lean ====
section
/-! DEFINITION. The formats of the bus (R151, R162): bit fields, frames and their check, the payload layouts of
every telegram the part sends or acts on, and the profile memory image (R173). -/
namespace Sys2Proof.Machine

/-! ### Words and fields -/

/-- A payload as one word, the first byte the most significant (R162). -/
def wordOf (bytes : List Byte) : Nat := bytes.foldl (fun w b => w * 256 + b.toNat) 0

/-- Bits `hi` to `lo` of a word. -/
def bits (w hi lo : Nat) : Nat := (w >>> lo) % 2 ^ (hi + 1 - lo)

/-- The low `n` bytes of a word, most significant first. -/
def bytesOf : Nat → Nat → List Byte
  | 0, _ => []
  | n + 1, w => BitVec.ofNat 8 (w >>> (8 * n)) :: bytesOf n w

/-- A value placed in a field of `width` bits whose lowest bit is `lo`. -/
def field (v width lo : Nat) : Nat := (v % 2 ^ width) <<< lo

/-- One bit placed at position `lo`. -/
def flagBit (v : Bool) (lo : Nat) : Nat := if v then 1 <<< lo else 0

/-! ### Frames (R151) -/

/-- The `n` cells of a field, most significant first; `true` is recessive (1). -/
def fieldCells : Nat → Nat → List Bool
  | 0, _ => []
  | n + 1, v => v.testBit n :: fieldCells n v

/-- One step of the check register over one cell: generator 1021h (R151). -/
def crcStep (r : BitVec 16) (cell : Bool) : BitVec 16 :=
  let shifted := r <<< 1
  if xor r.msb cell then shifted ^^^ 0x1021#16 else shifted

/-- The check over the cells from the first kind cell to the last payload cell: preset FFFFh (R151). -/
def crc16 (cells : List Bool) : BitVec 16 := cells.foldl crcStep 0xFFFF#16

/-- The contents of a whole frame (R151). -/
structure Frame where
  code : Nat
  source : Station
  dest : Station
  payload : List Byte
deriving DecidableEq, Repr

/-- The cells from the first kind cell to the last payload cell. -/
def Frame.body (f : Frame) : List Bool :=
  fieldCells 5 f.code ++ fieldCells 4 f.source.val ++ fieldCells 4 f.dest.val ++
    fieldCells 7 f.payload.length ++ f.payload.flatMap fun b => fieldCells 8 b.toNat

/-- The cells of a frame, in the order sent (R151). -/
def Frame.cells (f : Frame) : List Bool :=
  false :: (f.body ++ fieldCells 16 (crc16 f.body).toNat ++ [false])

/-- Read `n` cells as a number, most significant first, onto `acc`. -/
def readField : Nat → Nat → List Bool → Option (Nat × List Bool)
  | 0, acc, cells => some (acc, cells)
  | _ + 1, _, [] => none
  | n + 1, acc, c :: cells => readField n (2 * acc + c.toNat) cells

/-- Read `n` payload bytes. -/
def readBytes : Nat → List Bool → Option (List Byte × List Bool)
  | 0, cells => some ([], cells)
  | n + 1, cells =>
    match readField 8 0 cells with
    | none => none
    | some (b, rest) =>
      match readBytes n rest with
      | none => none
      | some (bs, rest') => some (BitVec.ofNat 8 b :: bs, rest')

/-- What a receiver makes of the cells from a start cell on: the contents of a whole frame, or nothing when the
length is above 64, the check disagrees, the end cell is recessive, or the frame is cut short (R151). -/
def readFrame (cells : List Bool) : Option Frame :=
  match cells with
  | false :: body =>
    match readField 5 0 body with
    | none => none
    | some (code, r1) =>
      match readField 4 0 r1 with
      | none => none
      | some (source, r2) =>
        match readField 4 0 r2 with
        | none => none
        | some (dest, r3) =>
          match readField 7 0 r3 with
          | none => none
          | some (len, r4) =>
            if 64 < len then none
            else
              match readBytes len r4 with
              | none => none
              | some (payload, r5) =>
                match readField 16 0 r5 with
                | none => none
                | some (check, r6) =>
                  if check = (crc16 (body.take (20 + 8 * len))).toNat ∧ r6.head? = some false then
                    some { code := code, source := Fin.ofNat 16 source, dest := Fin.ofNat 16 dest,
                           payload := payload }
                  else none
  | _ => none

/-- The nine arbitration cells of a frame, the first in the highest bit (R152). -/
def arbitrationCells (k : Kind) (source : Station) : BitVec 9 := BitVec.ofNat 9 (k.code * 16 + source.val)

/-! ### Payloads the part acts on (R162)

Each answers nothing when the payload length differs from the layout. -/

/-- The contents of an ATTACH. -/
structure AttachReport where
  identity : Identity
  kind : TerminalKind
  cls : ServiceClass
  quality : Quality
  delay : Nat
deriving DecidableEq, Repr

/-- Read an ATTACH. -/
def readAttach (p : List Byte) : Option AttachReport :=
  if p.length = 6 then
    let w := wordOf p
    some { identity := BitVec.ofNat 24 (bits w 47 24)
           kind := if bits w 23 23 = 0 then .fixed else .nomadic
           cls := Fin.ofNat 4 (bits w 22 21)
           quality := Fin.ofNat 16 (bits w 20 17)
           delay := bits w 10 0 }
  else none

/-- Read a one-byte payload that names a tag: DETACH, RELEASE, RETRAIN. -/
def readTag (p : List Byte) : Option Tag :=
  if p.length = 1 then some (Fin.ofNat 256 (wordOf p)) else none

/-- The contents of a QUALITY. -/
structure QualityReport where
  tag : Tag
  q : Vector Quality 6
  error : Int
deriving DecidableEq, Repr

/-- Read a QUALITY: q_b in bits 31-4b to 28-4b, the timing error in two's complement. -/
def readQuality (p : List Byte) : Option QualityReport :=
  if p.length = 5 then
    let w := wordOf p
    some { tag := Fin.ofNat 256 (bits w 39 32)
           q := Vector.ofFn fun b : Fin 6 => Fin.ofNat 16 (bits w (31 - 4 * b.val) (28 - 4 * b.val))
           error := (BitVec.ofNat 7 (bits w 6 0)).toInt }
  else none

/-- The contents of a RANGE. -/
structure RangeReport where
  tag : Tag
  delay : Nat
deriving DecidableEq, Repr

/-- Read a RANGE. -/
def readRange (p : List Byte) : Option RangeReport :=
  if p.length = 3 then
    let w := wordOf p
    some { tag := Fin.ofNat 256 (bits w 23 16), delay := bits w 10 0 }
  else none

/-- A direction bit: 0 DL, 1 UL. -/
def directionOf (bit : Nat) : Direction := if bit = 0 then .dl else .ul

/-- The contents of a BUFFER. -/
structure BufferReport where
  tag : Tag
  dir : Direction
  bytes : Nat
deriving DecidableEq, Repr

/-- Read a BUFFER. -/
def readBuffer (p : List Byte) : Option BufferReport :=
  if p.length = 5 then
    let w := wordOf p
    some { tag := Fin.ofNat 256 (bits w 39 32), dir := directionOf (bits w 31 31), bytes := bits w 23 0 }
  else none

/-- The contents of a USAGE. -/
structure UsageReport where
  interval : Interval
  dir : Direction
  last : Bool
  entries : List (Tag × Nat)
deriving DecidableEq, Repr

/-- Read `n` usage entries of three bytes each. -/
def readUsageEntries : Nat → List Byte → List (Tag × Nat)
  | 0, _ => []
  | n + 1, p =>
    let w := wordOf (p.take 3)
    (Fin.ofNat 256 (bits w 23 16), bits w 15 4) :: readUsageEntries n (p.drop 3)

/-- Read a USAGE: 3 + 3n bytes for an entry count n of 0 to 20; a count above 20 has no valid length. -/
def readUsage (p : List Byte) : Option UsageReport :=
  let h := wordOf (p.take 3)
  let n := bits h 4 0
  if 3 ≤ p.length ∧ n ≤ 20 ∧ p.length = 3 + 3 * n then
    some { interval := Fin.ofNat 4096 (bits h 23 12), dir := directionOf (bits h 11 11),
           last := bits h 10 10 == 1, entries := readUsageEntries n (p.drop 3) }
  else none

/-- The contents of a CLAIM; the band field can carry 6 and 7. -/
structure ClaimTelegram where
  band : Nat
  interval : Interval
deriving DecidableEq, Repr

/-- Read a CLAIM. -/
def readClaim (p : List Byte) : Option ClaimTelegram :=
  if p.length = 2 then
    let w := wordOf p
    some { band := bits w 15 13, interval := Fin.ofNat 4096 (bits w 11 0) }
  else none

/-- Read the band field of a BAND RELEASE, 0 to 7. -/
def readBandRelease (p : List Byte) : Option Nat :=
  if p.length = 1 then some (bits (wordOf p) 7 5) else none

/-- The contents of an ADMIT. -/
structure AdmitTelegram where
  identity : Identity
  quality : Quality
  interval : Interval
deriving DecidableEq, Repr

/-- Read an ADMIT. -/
def readAdmit (p : List Byte) : Option AdmitTelegram :=
  if p.length = 5 then
    let w := wordOf p
    some { identity := BitVec.ofNat 24 (bits w 39 16), quality := Fin.ofNat 16 (bits w 15 12),
           interval := Fin.ofNat 4096 (bits w 11 0) }
  else none

/-- A QUERY the responder answers (R163). -/
inductive Query where
  | byTag (tag : Tag)
  | ofStation
deriving DecidableEq, Repr

/-- Read a QUERY; one of another length or another selector is none (R163). -/
def readQuery (p : List Byte) : Option Query :=
  if p.length = 2 then
    let w := wordOf p
    match bits w 15 8 with
    | 0 => some (.byTag (Fin.ofNat 256 (bits w 7 0)))
    | 1 => some .ofStation
    | _ => none
  else none

/-- Read the mask of a CLEAR. -/
def readClear (p : List Byte) : Option (BitVec 16) :=
  if p.length = 2 then some (BitVec.ofNat 16 (wordOf p)) else none

/-! ### Payloads the part sends (R162) -/

/-- CLAIM. -/
def claimPayload (b : Band) (a : Interval) : List Byte := bytesOf 2 (field b.val 3 13 + field a.val 12 0)

/-- BAND RELEASE. -/
def bandReleasePayload (b : Band) : List Byte := bytesOf 1 (field b.val 3 5)

/-- ADMIT. -/
def admitPayload (i : Identity) (q : Quality) (a : Interval) : List Byte :=
  bytesOf 5 (field i.toNat 24 16 + field q.val 4 12 + field a.val 12 0)

/-- TAG ASSIGN. -/
def tagAssignPayload (t : Tag) (i : Identity) : List Byte := bytesOf 4 (field t.val 8 24 + field i.toNat 24 0)

/-- The code of a refusal reason. -/
def RefuseReason.code : RefuseReason → Nat
  | .rangeOut => 1
  | .tableFull => 2

/-- ATTACH REFUSE. -/
def attachRefusePayload (i : Identity) (r : RefuseReason) : List Byte :=
  bytesOf 4 (field i.toNat 24 8 + field r.code 8 0)

/-- The code of a release reason. -/
def ReleaseReason.code : ReleaseReason → Nat
  | .detached => 1
  | .lost => 2
  | .handedOver => 3
  | .forced => 4
  | .outOfRange => 5

/-- RELEASE NOTICE. -/
def releaseNoticePayload (t : Tag) (r : ReleaseReason) : List Byte :=
  bytesOf 2 (field t.val 8 8 + field r.code 8 0)

/-- ALERT. -/
def alertPayload (flags : BitVec 16) (cause : BitVec 4) : List Byte :=
  bytesOf 3 (field flags.toNat 16 8 + field cause.toNat 4 0)

/-- An entry of a composed grant list (R128). -/
inductive ListEntry where
  | range (tag : Tag)
  | sound (tag : Tag) (unit : Subchannel)
  | data (g : Grant)
deriving DecidableEq, Repr

/-- The tag an entry names. -/
def ListEntry.tag : ListEntry → Tag
  | .range t => t
  | .sound t _ => t
  | .data g => g.tag

/-- The L code of a block size: 0, 1, 2, 3 for 1, 2, 4, 8. -/
def sizeCode (size : Nat) : Nat := Nat.log2 size

/-- One entry as a 32-bit word. -/
def ListEntry.word : ListEntry → Nat
  | .range t => field t.val 8 24 + field 3 2 22
  | .sound t u => field t.val 8 24 + field 2 2 22 + field u.val 6 16 + field 1 4 10
  | .data g =>
    field g.tag.val 8 24 + field (match g.dir with | .dl => 0 | .ul => 1) 2 22 + field g.start.val 6 16 +
      field (sizeCode g.size) 2 14 + field g.count 4 10 + flagBit (g.order == .interleaved) 9 +
      flagBit (g.reach == .far) 8 + field g.quality.val 4 4

/-- GRANT LIST of interval `t`. -/
def grantListPayload (t : Interval) (seq : Nat) (last : Bool) (entries : List ListEntry) : List Byte :=
  bytesOf 3 (field t.val 12 12 + field seq 3 9 + flagBit last 8 + field entries.length 4 4) ++
    entries.flatMap fun e => bytesOf 4 e.word

/-- The state code of a context in STATUS. -/
def Life.code : Life → Nat
  | .free => 0
  | .admitting => 1
  | .active => 2
  | .dormant => 3
  | .recovery => 4

/-- The q per band field of STATUS, band 0 in the highest four bits; 0 while absent. -/
def qWord : Option (Vector Quality 6) → Nat
  | none => 0
  | some q => allBands.foldl (fun w b => w * 16 + (q[b]).val) 0

/-- STATUS of form 0 for a tag that is not valid. -/
def statusAbsentPayload (t : Tag) : List Byte := bytesOf 1 0 ++ bytesOf 1 t.val ++ bytesOf 1 0

/-- STATUS of form 0 for the context in the tag's slot: 42 bytes. -/
def statusContextPayload (t : Tag) (i : Slot) (c : Context) : List Byte :=
  bytesOf 1 0 ++ bytesOf 1 t.val ++ bytesOf 1 1 ++ bytesOf 1 i.val ++
  bytesOf 1 (field c.life.code 3 5 + flagBit (c.kind == .nomadic) 4 + flagBit (c.reach == .far) 3 +
    field c.cls.val 2 1 + flagBit c.retrain 0) ++
  bytesOf 3 ((c.identity.map BitVec.toNat).getD 0) ++
  bytesOf 2 (field c.ta 11 0 + field c.hold 3 11 + flagBit c.q.isSome 14) ++
  bytesOf 3 (qWord c.q) ++
  bytesOf 1 (field c.qWide.val 4 4 + field c.attachQuality.val 4 0) ++
  bytesOf 2 (field c.admitted.val 12 4 + field c.rangeRepeat 4 0) ++
  bytesOf 2 (field c.age 12 4 + field (c.sound.getD 15) 4 0) ++
  bytesOf 2 (field c.silence 12 4) ++
  bytesOf 2 (field c.dormancy 12 4) ++
  bytesOf 4 c.backlog.dl ++ bytesOf 4 c.backlog.ul ++
  bytesOf 3 c.pending.dl ++ bytesOf 3 c.pending.ul ++
  bytesOf 3 c.average.dl ++ bytesOf 3 c.average.ul

/-- The station state code of STATUS. -/
def StationState.code : StationState → Nat
  | .loading => 0
  | .halted => 1
  | .syncing => 2
  | .listening => 3
  | .running => 4
  | .suspended => 5

/-- The own state code of a band group. -/
def ClaimState.code : ClaimState → Nat
  | .free => 0
  | .announced => 1
  | .held => 2
  | .releasing => 3

/-- One band group of STATUS form 1, 6 bytes. What belongs to an absent announcement interval or entry is a free
value read with `n` (log entry 10). -/
def bandGroup (n : Nat) (b : Band) (c : OwnClaim) (e : Option PeerEntry) : List Byte :=
  bytesOf 2 (field c.state.code 2 14 + flagBit c.announced.isSome 13 +
    field ((c.announced.map Fin.val).getD (Config.absentAnnouncement n b).toNat) 12 0) ++
  bytesOf 1 (flagBit e.isSome 7 +
    field ((e.map fun p => p.station.val).getD (Config.absentEntryStation n b).toNat) 4 0) ++
  bytesOf 2 (field ((e.map fun p => p.interval.val).getD (Config.absentEntryInterval n b).toNat) 12 0) ++
  bytesOf 1 (field ((e.map PeerEntry.age).getD (Config.absentEntryAge n b).toNat) 8 0)

/-- STATUS of form 1: 46 bytes. -/
def statusStationPayload (s : State) : List Byte :=
  bytesOf 1 1 ++
  bytesOf 1 (field s.station.code 3 0 + flagBit s.resetSeq.isSome 7) ++
  bytesOf 2 s.flags.toNat ++
  bytesOf 1 s.cause.toNat ++
  bytesOf 1 s.contextsInUse ++
  bytesOf 2 (field s.interval.val 12 0 + flagBit s.synced 15) ++
  bytesOf 1 s.farDemand ++
  bytesOf 1 s.spacing ++
  allBands.flatMap fun b => bandGroup s.freeCount b (s.own b) (s.neighbour b)

/-! ### The profile memory image (R162, R173) -/

/-- The byte at an offset of the image; a memory that does not answer reads FFh (R173). -/
def imageByte (image : List Byte) (n : Nat) : Nat := ((image[n]?).getD 0xFF#8).toNat

/-- Clamp a value to the nearest end of a range (R173). -/
def clampTo (lo hi v : Nat) : Nat := max lo (min hi v)

/-- The rounding mode of a code. -/
def Rounding.ofCode : Nat → Rounding
  | 0 => .nearest
  | 1 => .towardZero
  | 2 => .up
  | _ => .down

/-- The visiting order of a bit. -/
def VisitOrder.ofBit (bit : Nat) : VisitOrder := if bit = 0 then .sequential else .interleaved

/-- The silence code of a number. -/
def SilenceCode.ofCode : Nat → SilenceCode
  | 0 => .a
  | 1 => .b
  | 2 => .c
  | _ => .d

/-- The profile record a good load writes: every field of the image, clamped to its range (R173). -/
def profileOf (image : List Byte) : Profile :=
  let at1 := imageByte image
  let at2 := fun n => at1 n * 256 + at1 (n + 1)
  { partner := Fin.ofNat 16 (clampTo 0 14 (bits (at1 1) 7 4))
    management := Fin.ofNat 16 (clampTo 0 14 (bits (at1 1) 3 0))
    neighbourMask := BitVec.ofNat 16 (at2 2)
    quota := clampTo 0 6 (bits (at1 4) 7 5)
    soundingUnits := clampTo 0 4 (bits (at1 4) 4 2)
    rounding := Rounding.ofCode (bits (at1 4) 1 0)
    smoothing := clampTo 3 10 (bits (at1 5) 7 4)
    derate := bits (at1 5) 3 1
    orders := ⟨VisitOrder.ofBit (bits (at1 6) 7 7), VisitOrder.ofBit (bits (at1 6) 6 6)⟩
    silenceFixed := SilenceCode.ofCode (bits (at1 6) 5 4)
    silenceNomadic := SilenceCode.ofCode (bits (at1 6) 3 2)
    horizon := clampTo 50 1000 (bits (at2 7) 9 0)
    farTa := bits (at2 9) 9 0
    farQ := bits (at1 11) 7 4
    taLimit := bits (at2 12) 9 0
    drift := clampTo 1 63 (bits (at1 14) 5 0)
    dormancyTime := clampTo 100 4000 (bits (at2 15) 11 0)
    initialAverage := at1 17 * 65536 + at2 18
    alertMask := BitVec.ofNat 16 (at2 20) }

end Sys2Proof.Machine
end

