-- ==== Sys2Proof/Machine/Flags.lean ====
section
/-! DEFINITION. The condition unit (R167 to R171): sticky flags, ALERT telegrams, the ALERT_N line. -/
namespace Sys2Proof.Machine

/-- The number of a condition (R167). -/
def Condition.num : Condition → Nat
  | .overflow => 0
  | .divzero => 1
  | .underflow => 2
  | .stale => 3
  | .tableFull => 4
  | .rangeOut => 5
  | .lostFixed => 6
  | .claimLost => 7
  | .lateList => 8
  | .usageTimeout => 9
  | .recordsFull => 10
  | .rxOverrun => 11
  | .txFail => 12
  | .timingFault => 13
  | .reachChange => 14
  | .tagUnknown => 15

/-- The mask bit of a condition. -/
def Condition.bit (c : Condition) : BitVec 16 := 1#16 <<< c.num

/-- The sticky flag of the condition is set (R167). -/
def State.raised (s : State) (c : Condition) : Bool := s.flags.getLsbD c.num

/-- The alert enable mask enables the condition (R168). -/
def State.enabled (s : State) (c : Condition) : Bool := s.profile.alertMask.getLsbD c.num

/-- Set the sticky flag. -/
def State.setFlag (s : State) (c : Condition) : State := s.setFlags (s.flags ||| c.bit)

/-- The ALERT of this moment: all flags and the arithmetic cause (R168). -/
def State.alertTelegram (s : State) : TxTelegram :=
  telegram .alert s.profile.management (alertPayload s.flags s.cause) .unreported

/-- Put one ALERT into the queue if it takes it; `none` when it is refused (R158, R168). -/
def State.queueAlert (s : State) : Option State :=
  match admitToQueue s.txQueue s.alertTelegram with
  | .queued q => some (s.setTxQueue q)
  | .evicted q _ => some (s.setTxQueue q)
  | .refused => none

/-- Offer an ALERT. A refused one raises TX_FAIL; if that is a clear-to-set change and enabled, one further
ALERT is offered, whose refusal finds TX_FAIL set, so the chain ends (R158, R168). Class 6 evicts nothing. -/
def offerAlert (s : State) : State :=
  if s.acting then
    match s.queueAlert with
    | some s' => s'
    | none =>
      if s.raised .txFail then s
      else
        let failed := s.setFlag .txFail
        if failed.enabled .txFail then failed.queueAlert.getD failed else failed
  else s

/-- Raise a condition (R167, R168). -/
def raise (c : Condition) (s : State) : State :=
  if s.raised c then s
  else
    let flagged := s.setFlag c
    if flagged.enabled c then offerAlert flagged else flagged

/-- ALERT_N is held low (R169): while an enabled flag is set, and throughout HALTED. -/
def State.alertLow (s : State) : Bool :=
  decide (s.station = .halted) || decide (s.flags &&& s.profile.alertMask ≠ 0)

end Sys2Proof.Machine
end

