-- ==== Sys2Proof/Machine/Arithmetic.lean ====
section
/-! DEFINITION. Ranking arithmetic (R96 to R111): efficiency, derate, rounding, the metric and the average
update; and the order in which sorted choices are made. -/
namespace Sys2Proof.Machine

/-- The top of the range of metrics and averages. -/
def metricMax : Nat := 16777215

/-- The efficiency E(q): bits carried by one resource unit (R96). -/
def efficiency (q : Quality) : Nat :=
  [0, 12, 18, 28, 40, 56, 76, 96, 124, 156, 190, 228, 268, 310, 352, 396].getD q.val 0

/-- The quality of a band for a context: the reported one, or the attach quality (R15, R97). -/
def Context.quality (c : Context) (b : Band) : Quality :=
  match c.q with
  | some q => q[b]
  | none => c.attachQuality

/-- The band is offered at derated quality to a NEAR candidate (R94, R98). -/
def BandCopy.derated (b : BandCopy) : Bool :=
  match b.own with
  | .free => b.entry
  | .announced => false
  | .held => false
  | .releasing => true

/-- The derated quality q' of a band for a candidate (R98). -/
def derateQuality (derate : Nat) (reach : Reach) (copy : BandCopy) (q : Quality) : Quality :=
  if reach = .near ∧ copy.derated then ⟨q.val - derate, by omega⟩ else q

/-- The band is offered to a candidate of this reach (R94, R100). -/
def BandCopy.offeredTo (b : BandCopy) : Reach → Bool
  | .near => true
  | .far => decide (b.own = .held)

/-- The exact quotient of `n` by a positive `d`, rounded once in signed arithmetic (R99). -/
def roundQuotient (m : Rounding) (n : Int) (d : Nat) : Int :=
  let floor := n / (d : Int)
  let rest := n % (d : Int)
  match m with
  | .down => floor
  | .up => if rest = 0 then floor else floor + 1
  | .towardZero => if rest = 0 ∨ 0 ≤ n then floor else floor + 1
  | .nearest =>
    if 2 * rest < d then floor
    else if (d : Int) < 2 * rest then floor + 1
    else if floor % 2 = 0 then floor else floor + 1

/-- A metric with the arithmetic condition it raises, for a band with E(q') = `e` above 0 (R101 to R103). -/
def metric (m : Rounding) (e : Nat) (cls : ServiceClass) (average : Nat) : Nat × Option Condition :=
  if average = 0 then (metricMax, some .divzero)
  else
    let rounded := (roundQuotient m (e * 2 ^ (20 + cls.val)) average).toNat
    if metricMax < rounded then (metricMax, some .overflow)
    else if rounded = 0 then (0, some .underflow)
    else (rounded, none)

/-- The average update (R107, R110): `average` and the delivered bits to the new average. -/
def averageUpdate (m : Rounding) (shift average delivered : Nat) : Nat :=
  let step := roundQuotient m (256 * (delivered : Int) - average) (2 ^ shift)
  min metricMax ((average : Int) + step).toNat

/-- Put `x` into a sorted list, behind every element it does not strictly precede. -/
def insertBy {α : Type} (before : α → α → Bool) (x : α) : List α → List α
  | [] => [x]
  | y :: ys => if before x y then x :: y :: ys else y :: insertBy before x ys

/-- Sort by a strict order, keeping the list's order among equals. -/
def sortBy {α : Type} (before : α → α → Bool) (xs : List α) : List α :=
  xs.foldl (fun sorted x => insertBy before x sorted) []

/-- Raise an arithmetic condition: with the condition unit, and into the placement's in-flight set (R105). -/
def raiseArithmetic (c : Condition) (s : State) : State :=
  raise c (s.setInFlight (s.inFlight ||| (1#4 <<< c.num)))

end Sys2Proof.Machine
end

