-- ==== Sys2Proof/Machine/Records.lean ====
section
/-! DEFINITION. The record list (R136 to R149): rollback, the grant list register, orphans, interval close, the
grant list deadline, and the discard at a timing fault. -/
namespace Sys2Proof.Machine

/-- The top of the backlog range (R15). -/
def backlogMax : Nat := 134217727

/-- Return bits to a backlog, held to its range (R140, R145, R148). -/
def addBacklog (backlog bitsBack : Nat) : Nat := min backlogMax (backlog + bitsBack)

/-- A context that loses `granted` pending bits in a direction and gets `bitsBack` of them back as backlog. -/
def Context.unpend (c : Context) (d : Direction) (granted bitsBack : Nat) : Context :=
  { c with pending := c.pending.put d (c.pending.at d - granted)
           backlog := c.backlog.put d (addBacklog (c.backlog.at d) bitsBack) }

/-- The effect of a rollback on the record's context: none for an orphan (R140). -/
def restoreBits (s : State) (r : Record) : State :=
  if r.orphan then s else s.putCtx r.slot ((s.ctx r.slot).unpend r.dir r.granted r.granted)

/-- Roll back and remove every record that satisfies `p` (R140). -/
def rollbackWhere (p : Record → Bool) (s : State) : State :=
  ((s.records.filter p).foldl restoreBits s).setRecords (s.records.filter fun r => !p r)

/-- The record is carried by telegram `n` of interval `t`. -/
def Record.carriedBy (r : Record) (t : Interval) (n : Nat) : Bool :=
  decide (r.interval = t) && decide (r.carrier = some n)

/-- The grant list register's entry of an interval (R137). -/
def State.registerOf (s : State) (t : Interval) : Option RegisterEntry :=
  s.register.find? fun e => decide (e.interval = t)

/-- The state of telegram `n` of interval `t` in the register. -/
def State.listState (s : State) (t : Interval) (n : Nat) : Option ListState :=
  (s.registerOf t).bind fun e => e.telegrams[n]?

/-- Rewrite the register entry of an interval. -/
def State.updateRegister (s : State) (t : Interval) (f : RegisterEntry → RegisterEntry) : State :=
  s.setRegister (s.register.map fun e => if e.interval = t then f e else e)

/-- Write the state of telegram `n`. -/
def RegisterEntry.mark (e : RegisterEntry) (n : Nat) (v : ListState) : RegisterEntry :=
  { e with telegrams := e.telegrams.set n v }

/-- The report that a GRANT LIST telegram was sent (R139). -/
def listSent (t : Interval) (n : Nat) (s : State) : State :=
  if s.listState t n = some .queued then s.updateRegister t (·.mark n .sent) else s

/-- The report that a GRANT LIST telegram was dropped or evicted (R139). -/
def listDropped (t : Interval) (n : Nat) (s : State) : State :=
  if s.listState t n = some .queued then
    rollbackWhere (·.carriedBy t n) (s.updateRegister t (·.mark n .dropped))
  else s

/-- The report that a GRANT LIST telegram on the wire at its deadline ended in a transmit error (R141). -/
def listWithdrawn (t : Interval) (n : Nat) (s : State) : State :=
  if s.listState t n = some .queued then
    let already := (s.registerOf t).any (·.late)
    let rolled := rollbackWhere (·.carriedBy t n)
      (s.updateRegister t fun e => { e.mark n .withdrawn with late := true })
    if already then rolled else raise .lateList rolled
  else s

/-- The telegram is one of interval `t`'s, by its owner. -/
def Owner.listSeq (o : Owner) (t : Interval) : Option Nat :=
  match o with
  | .grantList t' n => if t' = t then some n else none
  | .claim _ => none
  | .bandRelease _ _ => none
  | .unreported => none
  | .disowned => none

/-- The sequence numbers of interval `t` that a deadline withdraws at once: QUEUED, in the queue, not on the
wire (R141). -/
def State.lateLists (s : State) (t : Interval) : List Nat :=
  s.txQueue.filterMap fun x =>
    match x.owner.listSeq t with
    | some n => if s.listState t n = some .queued ∧ x.onWire = false then some n else none
    | none => none

/-- The telegram is a QUEUED one of interval `t`. -/
def State.queuedList (s : State) (t : Interval) (x : TxTelegram) : Bool :=
  match x.owner.listSeq t with
  | some n => decide (s.listState t n = some .queued)
  | none => false

/-- The grant list deadline of interval `t` (R141). -/
def deadline (t : Interval) (s : State) : State :=
  let late := s.lateLists t
  let removed := s.setTxQueue (removeTelegrams (s.queuedList t) TxTelegram.marked s.txQueue)
  if late = [] then removed
  else
    raise .lateList
      (rollbackWhere (fun r => late.any fun n => r.carriedBy t n)
        (removed.updateRegister t fun e => { late.foldl (fun e n => e.mark n .withdrawn) e with late := true }))

/-- Orphan every record of a released context (R147). -/
def orphanRecords (slot : Slot) (tag : Tag) (s : State) : State :=
  s.setRecords (s.records.map fun r => if r.slot = slot ∧ r.tag = tag then { r with orphan := true } else r)

/-- The record belongs to the interval and direction. -/
def Record.inClose (r : Record) (t : Interval) (d : Direction) : Bool :=
  decide (r.interval = t) && decide (r.dir = d)

/-- The delivered value a close fixes (R145). -/
def Record.settled (cause : CloseCause) (r : Record) : Nat :=
  match r.delivered with
  | some v => v
  | none =>
    match cause with
    | .last => 0
    | .timeout => r.granted

/-- The context writes of one settled record (R145). -/
def settleRecord (cause : CloseCause) (s : State) (r : Record) : State :=
  if r.orphan then s
  else s.putCtx r.slot ((s.ctx r.slot).unpend r.dir r.granted (r.granted - r.settled cause))

/-- The delivered figure S of a slot at a close: its unorphaned record's, or 0 (R146). -/
def deliveredOf (cause : CloseCause) (closing : List Record) (i : Slot) : Nat :=
  match closing.find? fun r => decide (r.slot = i) && !r.orphan with
  | some r => r.settled cause
  | none => 0

/-- The average update of a close, for every ACTIVE context in the direction (R146). -/
def updateAverages (cause : CloseCause) (closing : List Record) (d : Direction) (s : State) : State :=
  s.setContexts (Vector.ofFn fun i =>
    let c := s.ctx i
    if c.life = .active then
      { c with average := c.average.put d
                (averageUpdate s.profile.rounding s.profile.smoothing (c.average.at d)
                  (deliveredOf cause closing i)) }
    else c)

/-- At current number `now` pulse t+4 of interval `t` has passed (R137, R144): its age is 4 to 4093. An age of 4094 or
4095 is that of an interval still ahead, 2 at most (R113; log entry 13). -/
def overdue (now t : Interval) : Bool := decide (4 ≤ age now t ∧ age now t ≤ 4093)

/-- The interval and direction are open (R137). -/
def State.isOpen (s : State) (t : Interval) (d : Direction) : Bool :=
  s.openIntervals.any fun o => decide (o.interval = t) && decide (o.dir = d)

/-- Write the close cause into the open-interval entry (R137). -/
def State.writeCause (s : State) (t : Interval) (d : Direction) (cause : CloseCause) : State :=
  s.setOpenIntervals (s.openIntervals.map fun o =>
    if o.interval = t ∧ o.dir = d then { o with cause := some cause } else o)

/-- The open-interval entry leaves the list, and the register entry when both have left (R137, R143). -/
def State.dropOpen (s : State) (t : Interval) (d : Direction) : State :=
  let left := s.openIntervals.filter fun o => !(decide (o.interval = t) && decide (o.dir = d))
  let register := if left.any fun o => decide (o.interval = t) then s.register
    else s.register.filter fun e => !decide (e.interval = t)
  (s.setOpenIntervals left).setRegister register

/-- Close an interval and direction: settle its records, run the average updates, remove both (R143 to R146). -/
def closeInterval (t : Interval) (d : Direction) (cause : CloseCause) (s : State) : State :=
  let closing := s.records.filter (·.inClose t d)
  let settled := closing.foldl (settleRecord cause) (s.writeCause t d cause)
  ((updateAverages cause closing d settled).setRecords (s.records.filter fun r => !r.inClose t d)).dropOpen t d

/-- Close by timeout: USAGE_TIMEOUT if an unorphaned record holds no delivered value (R144). -/
def timeoutClose (t : Interval) (d : Direction) (s : State) : State :=
  if s.isOpen t d then
    let unreported := s.records.any fun r => r.inClose t d && !r.orphan && r.delivered.isNone
    let closed := closeInterval t d .timeout s
    if unreported then raise .usageTimeout closed else closed
  else s

/-- One entry of a USAGE (R142). -/
def applyUsage (t : Interval) (d : Direction) (s : State) (entry : Tag × Nat) : State :=
  s.setRecords (s.records.map fun r =>
    if r.inClose t d ∧ r.tag = entry.1 ∧ r.orphan = false then
      { r with delivered := some (min entry.2 r.granted) }
    else r)

/-- A USAGE that passed the length test (R142, R143). -/
def takeUsage (u : UsageReport) (s : State) : State :=
  if s.isOpen u.interval u.dir then
    let applied := u.entries.foldl (applyUsage u.interval u.dir) s
    if u.last then closeInterval u.interval u.dir .last applied else applied
  else s

/-- The backlog effect of the discard at a timing fault on one record (R148). -/
def returnBits (s : State) (r : Record) : State :=
  if r.orphan then s
  else
    let c := s.ctx r.slot
    s.putCtx r.slot { c with backlog := c.backlog.put r.dir (addBacklog (c.backlog.at r.dir) r.granted) }

/-- The discard of everything the record list holds, at a timing fault (R148). -/
def discardRecords (s : State) : State :=
  let returned := s.records.foldl returnBits s
  let cleared := returned.setContexts (Vector.ofFn fun i =>
    let c := returned.ctx i
    if c.inUse then { c with pending := ⟨0, 0⟩ } else c)
  let queued := fun x : TxTelegram => s.register.any fun e => s.queuedList e.interval x
  ((((((cleared.setRecords []).setOpenIntervals []).setRegister []).setDeadlinesDue []).setClosesDue []).setTxQueue
    (removeTelegrams queued TxTelegram.markedDisowned s.txQueue))

end Sys2Proof.Machine
end

