-- ==== Sys2Proof/Machine/Bus.lean ====
section
/-! DEFINITION. The transmit side of the bus interface toward the blocks that offer telegrams (R157 to R161):
offering with eviction and refusal, and the reports of a telegram's fate to the claim controller and the record
list (R79, R80, R83, R139). -/
namespace Sys2Proof.Machine

/-- An own band back to FREE without backoff: a first CLAIM withdrawn, dropped or removed (R79, R80). -/
def OwnClaim.withdrawn (c : OwnClaim) : OwnClaim :=
  { c with state := .free, announced := none, phase := none, outstanding := none }

/-- The report that a band's CLAIM was dropped, or removed on request: the outstanding CLAIM becomes absent, and
an ANNOUNCED band with no lead count returns to FREE (R79, R80, R83). -/
def claimGone (b : Band) (s : State) : State :=
  let c := s.own b
  match c.outstanding with
  | none => s
  | some _ =>
    if c.state = .announced ∧ c.phase = none then s.putOwn b c.withdrawn
    else s.putOwn b { c with outstanding := none }

/-- The report that a band's CLAIM was sent: the first one starts the lead (R79). -/
def claimSent (b : Band) (s : State) : State :=
  let c := s.own b
  match c.outstanding with
  | none => s
  | some _ =>
    if c.state = .announced ∧ c.phase = none then s.putOwn b { c with outstanding := none, phase := some 8 }
    else s.putOwn b { c with outstanding := none }

/-- Report a drop or an eviction to the originating block (R158, R160). -/
def reportDropped (o : Owner) (s : State) : State :=
  match o with
  | .claim b => claimGone b s
  | .grantList t n => listDropped t n s
  | .bandRelease _ _ => s
  | .unreported => s
  | .disowned => s

/-- Offer a telegram to the transmit queue (R157, R158, R161). -/
def offer (t : TxTelegram) (s : State) : State :=
  if s.acting then
    match admitToQueue s.txQueue t with
    | .queued q => s.setTxQueue q
    | .evicted q v => reportDropped v.owner (s.setTxQueue q)
    | .refused => reportDropped t.owner (raise .txFail s)
  else s

/-- The owner is the band's CLAIM. -/
def Owner.isClaimOf (o : Owner) (b : Band) : Bool := decide (o = .claim b)

/-- Ask for the removal of a band's CLAIM, the matter being dropped (R83, R85, R89, R93, R159). -/
def dropClaim (b : Band) (s : State) : State :=
  s.setTxQueue (removeTelegrams (fun x => x.owner.isClaimOf b) TxTelegram.markedDisowned s.txQueue)

end Sys2Proof.Machine
end

