-- ==== Sys2Proof/Machine/ContextTable.lean ====
section
/-! DEFINITION. The context table and tag map (R15 to R38) and what report intake does to a context (R43 to
R57). -/
namespace Sys2Proof.Machine

/-! ### Pulse work of one context -/

/-- The timeout of a silence code (R23). -/
def SilenceCode.timeout : SilenceCode → Nat
  | .a => 25
  | .b => 250
  | .c => 2500
  | .d => 4000

/-- The silence timeout of a kind of terminal (R23). -/
def Profile.timeout (p : Profile) : TerminalKind → Nat
  | .fixed => p.silenceFixed.timeout
  | .nomadic => p.silenceNomadic.timeout

/-- Entry into RECOVERY (R24). -/
def Context.enterRecovery (c : Context) : Context :=
  { c with life := .recovery, retrain := true, silence := 0, dormancy := 0, rangeRepeat := 0 }

/-- Leaving RECOVERY for ACTIVE (R26). -/
def Context.leaveRecovery (c : Context) : Context :=
  { c with life := .active, retrain := false, silence := 0, dormancy := 0 }

/-- What the pulse work of R29 does to a context; all but `plain` are thresholds of the table. -/
inductive ContextPulse where
  | plain (c : Context)
  | holdEnd (c : Context)
  | recovery (c : Context)
  | lost
  | dormant (c : Context)
deriving DecidableEq, Repr

/-- The dormancy test of an ACTIVE context (R27). -/
def dormancyTest (p : Profile) (c : Context) : ContextPulse :=
  if c.backlog.dl = 0 ∧ c.backlog.ul = 0 then
    if p.dormancyTime ≤ c.dormancy + 1 then .dormant { c with life := .dormant, dormancy := 0 }
    else .plain { c with dormancy := c.dormancy + 1 }
  else .plain { c with dormancy := 0 }

/-- The pulse work of one context (R22, R23, R25, R27, R29). -/
def contextPulse (p : Profile) (c : Context) : ContextPulse :=
  match c.life with
  | .free => .plain c
  | .admitting =>
    if c.hold ≤ 1 then .holdEnd { c with life := .active, hold := 0, silence := 0, dormancy := 0 }
    else .plain { c with hold := c.hold - 1 }
  | .active =>
    if p.timeout c.kind ≤ c.silence + 1 then .recovery c.enterRecovery
    else dormancyTest p { c with silence := c.silence + 1 }
  | .dormant =>
    if p.timeout c.kind ≤ c.silence + 1 then .recovery c.enterRecovery
    else .plain { c with silence := c.silence + 1 }
  | .recovery =>
    if p.timeout c.kind ≤ c.silence + 1 then .lost
    else .plain { c with silence := c.silence + 1 }

/-! ### Release -/

/-- The condition a release raises, if any (R31). -/
def ReleaseReason.condition (r : ReleaseReason) (kind : TerminalKind) : Option Condition :=
  match r with
  | .detached => none
  | .lost => if kind = .fixed then some .lostFixed else none
  | .handedOver => none
  | .forced => none
  | .outOfRange => some .rangeOut

/-- Release the context of a slot (R30, R31). -/
def releaseContext (i : Slot) (reason : ReleaseReason) (s : State) : State :=
  match (s.ctx i).tag with
  | none => s
  | some tag =>
    let noticed := offer (telegram .releaseNotice s.profile.partner (releaseNoticePayload tag reason) .unreported) s
    let freed := (orphanRecords i tag (noticed.putTag tag ⟨none, 64⟩)).putCtx i Context.free
    match reason.condition (s.ctx i).kind with
    | some c => raise c freed
    | none => freed

/-- Do the whole pulse work of one slot (R29). -/
def pulseSlot (i : Slot) (s : State) : State :=
  match contextPulse s.profile (s.ctx i) with
  | .plain c => s.putCtx i c
  | .holdEnd c => s.putCtx i c
  | .recovery c => s.putCtx i c
  | .dormant c => s.putCtx i c
  | .lost => releaseContext i .lost s

/-! ### Admission -/

/-- The slot of the non-FREE context that holds an identity (R16). -/
def State.holder (s : State) (id : Identity) : Option Slot :=
  allSlots.find? fun i => (s.ctx i).inUse && decide ((s.ctx i).identity = some id)

/-- The lowest-numbered free slot (R20). -/
def State.lowestFree (s : State) : Option Slot := allSlots.find? fun i => !(s.ctx i).inUse

/-- The number of tags valid or quarantined (R19). -/
def State.tagsTaken (s : State) : Nat := (allTags.filter fun t => !(s.tagEntry t).unassigned).length

/-- The tag search from the tag pointer upward, wrapping (R20). -/
def State.searchTag (s : State) : Option Tag :=
  (allTags.map fun k => s.tagPtr + k).find? fun t => (s.tagEntry t).unassigned

/-- The slot and tag the table can take a terminal into, if there is room (R19, R20). -/
def State.room (s : State) : Option (Slot × Tag) :=
  if s.tagsTaken < 192 then
    match s.lowestFree, s.searchTag with
    | some i, some t => some (i, t)
    | _, _ => none
  else none

/-- Reach at admission, without hysteresis (R47). -/
def reachAtAttach (p : Profile) (delay : Nat) (q : Quality) : Reach :=
  if p.farTa ≤ delay ∨ q.val ≤ p.farQ then .far else .near

/-- The context an admission writes (R21). -/
def admittedContext (p : Profile) (now : Interval) (t : Tag) (a : AttachReport) : Context where
  life := .admitting
  identity := some a.identity
  tag := some t
  kind := a.kind
  cls := a.cls
  reach := reachAtAttach p a.delay a.quality
  ta := a.delay
  attachQuality := a.quality
  admitted := now
  q := none
  qWide := a.quality
  age := 0
  sound := none
  backlog := ⟨0, 0⟩
  pending := ⟨0, 0⟩
  average := ⟨p.initialAverage, p.initialAverage⟩
  silence := 0
  dormancy := 0
  hold := 4
  rangeRepeat := 0
  retrain := false

/-- Queue a TAG ASSIGN (R21, R44). -/
def offerTagAssign (t : Tag) (id : Identity) (s : State) : State :=
  offer (telegram .tagAssign s.profile.partner (tagAssignPayload t id) .unreported) s

/-- Queue an ADMIT to all stations (R34). -/
def offerAdmit (id : Identity) (q : Quality) (a : Interval) (s : State) : State :=
  offer (telegram .admission 15 (admitPayload id q a) .unreported) s

/-- Admit a terminal into a slot with a tag (R20, R21). -/
def admitContext (i : Slot) (t : Tag) (a : AttachReport) (s : State) : State :=
  let written := ((s.putTag t ⟨some i, 0⟩).setTagPtr (t + 1)).putCtx i (admittedContext s.profile s.interval t a)
  offerAdmit a.identity a.quality s.interval (offerTagAssign t a.identity written)

/-- Refuse an ATTACH (R46). -/
def refuseAttach (id : Identity) (reason : RefuseReason) (s : State) : State :=
  let refused := offer (telegram .attachRefuse s.profile.partner (attachRefusePayload id reason) .unreported) s
  match reason with
  | .rangeOut => raise .rangeOut refused
  | .tableFull => raise .tableFull refused

/-! ### Reach, re-attach and the reports on a context -/

/-- Reach with hysteresis (R56). -/
def reachAfter (p : Profile) (c : Context) : Reach :=
  match c.reach with
  | .near => if p.farTa ≤ c.ta ∨ c.qWide.val ≤ p.farQ then .far else .near
  | .far => if c.ta + 16 < p.farTa ∧ p.farQ + 1 < c.qWide.val then .near else .far

/-- Write a context and re-evaluate its reach; a change raises REACH_CHANGE (R56, R57). -/
def writeAndClassify (i : Slot) (c : Context) (s : State) : State :=
  let reach := reachAfter s.profile c
  let written := s.putCtx i { c with reach := reach }
  if reach = c.reach then written else raise .reachChange written

/-- The context after a re-attach, before reach is evaluated (R44). -/
def Context.reattached (c : Context) (a : AttachReport) : Context :=
  let fields := { c with ta := a.delay, attachQuality := a.quality, kind := a.kind, cls := a.cls,
                         qWide := if c.q.isNone then a.quality else c.qWide, silence := 0 }
  if c.life = .recovery then fields.leaveRecovery else fields

/-- An ATTACH (R43 to R47). -/
def takeAttach (a : AttachReport) (s : State) : State :=
  if s.profile.taLimit < a.delay then refuseAttach a.identity .rangeOut s
  else
    match s.holder a.identity with
    | some i =>
      let written := writeAndClassify i ((s.ctx i).reattached a) s
      match (s.ctx i).tag with
      | some t => offerTagAssign t a.identity written
      | none => written
    | none =>
      match s.room with
      | some (i, t) => admitContext i t a s
      | none => refuseAttach a.identity .tableFull s

/-- Act on the context a report's tag names; an unassigned tag raises TAG_UNKNOWN (R40). -/
def onTag (t : Tag) (act : Slot → State → State) (s : State) : State :=
  match s.slotOf t with
  | some i => act i s
  | none => if (s.tagEntry t).quarantine = 0 then raise .tagUnknown s else s

/-- The silence count after an applied QUALITY or BUFFER (R23): RECOVERY keeps it. -/
def Context.heard (c : Context) : Context := if c.life = .recovery then c else { c with silence := 0 }

/-- q_wide from the six band qualities (R49). -/
def wideband (q : Vector Quality 6) : Quality :=
  ⟨(allBands.foldl (fun sum b => sum + (q[b]).val) 0) / 6 % 16, by omega⟩

/-- The channel fields a QUALITY writes (R49). -/
def Context.withQuality (c : Context) (r : QualityReport) : Context :=
  { c.heard with q := some r.q, qWide := wideband r.q, age := 0, sound := none }

/-- The context after a drift-sized timing error (R51). -/
def Context.drifted (c : Context) : Context :=
  match c.life with
  | .active => c.enterRecovery
  | .dormant => c.enterRecovery
  | .free => c
  | .admitting => c
  | .recovery => c

/-- The timing advance after a correction, clamped to 0 to 2047 (R50). -/
def correctedTa (ta : Nat) (error : Int) : Nat := min 2047 ((ta : Int) + error).toNat

/-- A QUALITY applied to the context of a slot (R49 to R51, R56). -/
def applyQuality (r : QualityReport) (i : Slot) (s : State) : State :=
  let c := (s.ctx i).withQuality r
  if r.error.natAbs < s.profile.drift then
    let ta := correctedTa c.ta r.error
    if ta ≤ s.profile.taLimit then writeAndClassify i { c with ta := ta } s
    else releaseContext i .outOfRange (s.putCtx i c)
  else writeAndClassify i c.drifted s

/-- A RANGE applied to the context of a slot (R52, R53). -/
def applyRange (r : RangeReport) (i : Slot) (s : State) : State :=
  let c := { s.ctx i with silence := 0 }
  if r.delay ≤ s.profile.taLimit then
    let ranged := { c with ta := r.delay }
    writeAndClassify i (if c.life = .recovery then ranged.leaveRecovery else ranged) s
  else releaseContext i .outOfRange (s.putCtx i c)

/-- The context woken from DORMANT (R28). -/
def Context.woken (c : Context) : Context :=
  { c with life := .active, dormancy := 0, silence := 0, age := 4095 }

/-- A BUFFER applied to the context of a slot (R54, R55, R28). -/
def applyBuffer (r : BufferReport) (i : Slot) (s : State) : State :=
  let c := s.ctx i
  let backlog := 8 * r.bytes - c.pending.at r.dir
  let written := { c.heard with backlog := c.backlog.put r.dir backlog }
  s.putCtx i (if c.life = .dormant ∧ 0 < backlog then written.woken else written)

/-! ### Handover -/

/-- The own admission wins the contest (R36). -/
def winsHandover (ownQ peerQ : Quality) (ownA peerA : Interval) (own peer : Station) : Bool :=
  if peerQ < ownQ then true
  else if ownQ < peerQ then false
  else if earlier ownA peerA then true
  else if earlier peerA ownA then false
  else decide (own < peer)

/-- A peer ADMIT (R35 to R37). -/
def takeAdmit (source : Station) (a : AdmitTelegram) (s : State) : State :=
  if source = s.ownStation then s
  else
    match s.holder a.identity with
    | none => s
    | some i =>
      let c := s.ctx i
      if winsHandover c.attachQuality a.quality c.admitted a.interval s.ownStation source then
        offerAdmit a.identity c.attachQuality c.admitted s
      else releaseContext i .handedOver s

end Sys2Proof.Machine
end

