-- ==== Sys2Proof/Machine/ClaimControl.lean ====
section
/-! DEFINITION. The claim controller and the neighbour map (R73 to R95). -/
namespace Sys2Proof.Machine

/-- The claim of `ownA` at station `own` wins against that of `peerA` at station `peer` (R75). -/
def winsClaim (ownA peerA : Interval) (own peer : Station) : Bool :=
  if earlier ownA peerA then true else if earlier peerA ownA then false else decide (own < peer)

/-- The announcement interval a CLAIM of a HELD band carries at `now`: the stored one, capped at age 1024
(R82). -/
def cappedAnnouncement (now a : Interval) : Interval := if age now a ≤ 1024 then a else now - 1024

/-- Queue a CLAIM to all stations (R78, R82, R88). -/
def offerClaim (b : Band) (a : Interval) (s : State) : State :=
  offer (telegram .claim 15 (claimPayload b a) (.claim b)) s

/-- Queue a BAND RELEASE to all stations (R85, R93). -/
def offerBandRelease (b : Band) (ofResetSequence : Bool) (s : State) : State :=
  offer (telegram .bandRelease 15 (bandReleasePayload b) (.bandRelease b ofResetSequence)) s

/-- Re-announce a HELD band: write the record, then queue the CLAIM (R82, R88). -/
def reannounce (b : Band) (c : OwnClaim) (s : State) : State :=
  let carried := cappedAnnouncement s.interval (c.announced.getD s.interval)
  offerClaim b carried
    (s.putOwn b { c with announced := some carried, outstanding := some s.interval, phase := some 64 })

/-- A refresh of a HELD band falls due (R82). -/
def refreshBand (b : Band) (s : State) : State :=
  let c := s.own b
  if c.state = .held then
    match c.outstanding with
    | some _ => s.putOwn b { c with phase := some 64 }
    | none => reannounce b c s
  else s

/-- The record of a band that goes to RELEASING (R85, R93). -/
def OwnClaim.leaving (c : OwnClaim) : OwnClaim :=
  { c with state := .releasing, announced := none, phase := some 4, outstanding := none }

/-- A band goes to RELEASING with a BAND RELEASE, its CLAIM removed (R85, R93). -/
def releaseBand (b : Band) (ofResetSequence : Bool) (c : OwnClaim) (s : State) : State :=
  offerBandRelease b ofResetSequence (dropClaim b (s.putOwn b c.leaving))

/-- The transmit limit of a band's outstanding CLAIM (R79): removed if still in the queue, marked if on the
wire. -/
def limitClaim (b : Band) (s : State) : State :=
  let c := s.own b
  match c.outstanding with
  | none => s
  | some a =>
    if age s.interval a < 2 then s
    else
      let waiting := s.txQueue.any fun x => x.owner.isClaimOf b && !x.onWire
      let asked := s.setTxQueue (removeTelegrams (fun x => x.owner.isClaimOf b) TxTelegram.marked s.txQueue)
      if waiting then claimGone b asked else asked

/-- The lead of an ANNOUNCED band ends (R81). -/
def holdBand (b : Band) (s : State) : State :=
  let c := s.own b
  if c.state = .announced then
    s.putOwn b { c with state := .held, phase := some 64, idle := 0, lastAssert := none }
  else s

/-- The settle of a RELEASING band ends (R85). -/
def settleBand (b : Band) (s : State) : State :=
  let c := s.own b
  if c.state = .releasing then s.putOwn b { c with state := .free, phase := none } else s

/-- A band's last-assert interval becomes absent (R77). -/
def expireAssert (b : Band) (s : State) : State := s.putOwn b { s.own b with lastAssert := none }

/-- A band's neighbour entry is removed (R91). -/
def expireNeighbour (b : Band) (s : State) : State := s.putNeighbour b none

/-- The idle count of a HELD band reaches 128 (R84, R85). -/
def releaseIdle (b : Band) (s : State) : State :=
  let c := s.own b
  if c.state = .held then releaseBand b false { c with idle := 128 } s else s

/-- A band this station may claim (R78). -/
def State.claimable (s : State) (b : Band) : Bool :=
  decide ((s.own b).state = .free) && decide ((s.own b).backoff = 0) && (s.neighbour b).isNone

/-- The band is claimed by this station (R78). -/
def OwnClaim.claimed (c : OwnClaim) : Bool := decide (c.state = .announced) || decide (c.state = .held)

/-- The number of bands ANNOUNCED or HELD (R78). -/
def State.claimedBands (s : State) : Nat := (allBands.filter fun b => (s.own b).claimed).length

/-- The claim decision at a placement completion (R78). -/
def decideClaim (s : State) : State :=
  if s.farDemand = 8 ∧ s.spacing = 0 ∧ s.claimedBands < s.profile.quota ∧ s.station = .running ∧
      s.resetSeq = none then
    match allBands.find? s.claimable with
    | none => s
    | some b =>
      let c := s.own b
      let record := { c with state := .announced, announced := some s.interval, phase := none,
                             outstanding := some s.interval, idle := 0, lastAssert := none }
      offerClaim b s.interval (((s.putOwn b record).setSpacing 16).setFarDemand 0)
  else s

/-- The FAR demand counter at a completion (R76). -/
def updateDemand (unmetFar : Bool) (s : State) : State :=
  s.setFarDemand (if unmetFar then min 8 (s.farDemand + 1) else 0)

/-- The idle count of a band at a completion, and whether it reaches 128 (R84). -/
def idleAfter (farGrant : Bool) (c : OwnClaim) : OwnClaim × Bool :=
  if c.state = .held then
    if farGrant then ({ c with idle := 0 }, false)
    else if 127 ≤ c.idle then (c, true)
    else ({ c with idle := c.idle + 1 }, false)
  else (c, false)

/-- The idle counts of all bands at a completion (R84); a count reaching 128 is left to its idle release. -/
def updateIdle (farBands : Band → Bool) (s : State) : State :=
  s.setClaims (Vector.ofFn fun b => (idleAfter (farBands b) (s.own b)).1)

/-- A heard CLAIM on a band this station claims and keeps (R88). -/
def keepClaim (b : Band) (s : State) : State :=
  let c := s.own b
  match c.state with
  | .held =>
    match c.lastAssert with
    | some _ => s
    | none =>
      match c.outstanding with
      | some _ => s.putOwn b { c with lastAssert := some s.interval }
      | none => reannounce b { c with lastAssert := some s.interval } s
  | .announced => s
  | .free => s
  | .releasing => s

/-- A heard CLAIM that defeats the own claim (R89). -/
def loseClaim (b : Band) (peer : PeerEntry) (s : State) : State :=
  let c := s.own b
  let recorded := (raise .claimLost s).putNeighbour b (some peer)
  match c.state with
  | .announced => dropClaim b (recorded.putOwn b { c.withdrawn with backoff := 64 })
  | .held => releaseBand b false { c with backoff := 64 } recorded
  | .free => recorded
  | .releasing => recorded

/-- A heard CLAIM on a band that is own FREE or RELEASING (R90). -/
def recordPeer (b : Band) (peer : PeerEntry) (s : State) : State :=
  match s.neighbour b with
  | none => s.putNeighbour b (some peer)
  | some e =>
    if e.station = peer.station ∨ winsClaim peer.interval e.interval peer.station e.station then
      s.putNeighbour b (some peer)
    else s

/-- A heard CLAIM for a band (R87 to R90). -/
def hearClaim (source : Station) (b : Band) (a : Interval) (s : State) : State :=
  let c := s.own b
  let peer : PeerEntry := { station := source, interval := a, age := 0 }
  if c.claimed then
    if winsClaim (c.announced.getD s.interval) a s.ownStation source then keepClaim b s
    else loseClaim b peer s
  else recordPeer b peer s

/-- A heard BAND RELEASE for a band (R91). -/
def hearRelease (source : Station) (b : Band) (s : State) : State :=
  match s.neighbour b with
  | none => s
  | some e => if e.station = source ∧ (s.own b).claimed = false then s.putNeighbour b none else s

/-- The band of a band field of 0 to 7; 6 and 7 name none (R87). -/
def bandField (n : Nat) : Option Band := if h : n < 6 then some ⟨n, h⟩ else none

/-- The step of a timing fault for the claim controller: every HELD band's refresh count becomes 1 (R86). -/
def faultRefresh (s : State) : State :=
  s.setClaims (Vector.ofFn fun b =>
    let c := s.own b
    if c.state = .held then { c with phase := some 1 } else c)

/-- The plain pulse work on one own claim record (R77): the last count of a phase is left to its threshold. -/
def OwnClaim.pulsed (c : OwnClaim) : OwnClaim :=
  { c with backoff := c.backoff - 1
           phase := match c.phase with
             | some n => if n ≤ 1 then some n else some (n - 1)
             | none => none }

/-- The plain pulse work on one neighbour entry (R91): the last count is left to its threshold. -/
def PeerEntry.pulsed (e : PeerEntry) : PeerEntry := if 191 ≤ e.age then e else { e with age := e.age + 1 }

/-- The thresholds of one band at a pulse event (R77, R79, R81, R82, R85, R91). -/
def bandDue (s : State) (b : Band) : List Due :=
  let c := s.own b
  let phase := match c.phase with
    | some n => decide (n ≤ 1)
    | none => false
  (if phase then
    match c.state with
    | .announced => [Due.bandHeld b]
    | .held => [Due.refreshClaim b]
    | .releasing => [Due.settleEnd b]
    | .free => []
   else []) ++
  (match c.outstanding with
   | some a => if 2 ≤ age s.interval a then [Due.claimTransmitLimit b] else []
   | none => []) ++
  (match c.lastAssert with
   | some a => if 8 ≤ age s.interval a then [Due.lastAssertExpiry b] else []
   | none => []) ++
  (match s.neighbour b with
   | some e => if 191 ≤ e.age then [Due.neighbourEntryExpiry b] else []
   | none => [])

end Sys2Proof.Machine
end

