-- ==== Sys2Proof/Machine/Freshness.lean ====
section
/-! DEFINITION. The freshness controller (R59 to R71): its pulse work and the choice of range and SOUND entries. -/
namespace Sys2Proof.Machine

/-- The plain pulse work of the freshness controller on one context (R59, R61, R62, R69): the last count of
sound pending is left to its threshold. -/
def Context.freshened (c : Context) : Context :=
  if c.inUse then
    { c with age := min 4095 (c.age + 1)
             sound := match c.sound with
               | some n => if 7 ≤ n then some n else some (n + 1)
               | none => none
             rangeRepeat := c.rangeRepeat - 1 }
  else c

/-- Sound pending reaches 8 and becomes absent (R61). -/
def expireSound (i : Slot) (s : State) : State := s.putCtx i { s.ctx i with sound := none }

/-- The contexts that receive a range entry, up to four in slot order (R68). -/
def State.rangeChoice (s : State) : List Slot :=
  (allSlots.filter fun i => decide ((s.ctx i).life = .recovery) && decide ((s.ctx i).rangeRepeat = 0)).take 4

/-- First tier (R64). -/
def Context.firstTier (c : Context) : Bool :=
  decide (c.life = .active) && decide (c.age = 4095) && c.sound.isNone

/-- Second tier (R65). -/
def Context.secondTier (h : Nat) (c : Context) : Bool :=
  (decide (c.life = .active) || decide (c.life = .recovery)) && decide (h ≤ c.age) && c.sound.isNone

/-- Third tier (R66). -/
def Context.thirdTier (h : Nat) (c : Context) : Bool :=
  ((decide (c.life = .active) && decide (h / 2 ≤ c.age)) ||
    (decide (c.life = .dormant) && decide (4 * h ≤ c.age))) && c.sound.isNone

/-- The SOUND choice: all contexts chosen in order, and those of the third tier (R63 to R66). -/
structure SoundChoice where
  chosen : List Slot
  third : List Slot
deriving DecidableEq, Repr

/-- Choose up to K contexts through the three tiers (R63 to R66). -/
def State.soundChoice (s : State) : SoundChoice :=
  let k := s.profile.soundingUnits
  let h := s.profile.horizon
  let first := (allSlots.filter fun i => (s.ctx i).firstTier).take k
  let older := fun i j : Slot => decide ((s.ctx j).age < (s.ctx i).age)
  let second := (sortBy older (allSlots.filter fun i =>
    (s.ctx i).secondTier h && !first.contains i)).take (k - first.length)
  let third := ((slotsFrom s.refreshPtr).filter fun i =>
    (s.ctx i).thirdTier h && !first.contains i && !second.contains i).take (k - first.length - second.length)
  { chosen := first ++ second ++ third, third := third }

/-- The refresh pointer after the third tier (R66). -/
def refreshAfter (third : List Slot) (p : Slot) : Slot :=
  match third.getLast? with
  | some i => i + 1
  | none => p

/-- The sounding units in the order they are given (R2, R67). -/
def soundingUnits : List Subchannel := [47, 46, 45, 44]

/-- The context fields the choice writes (R63, R68). -/
def Context.chosen (c : Context) (ranged sounded : Bool) : Context :=
  { c with rangeRepeat := if ranged then 8 else c.rangeRepeat
           sound := if sounded then some 0 else c.sound }

/-- The chosen entries of a placement, as tags, with the context fields and the pointer written (R63 to R68,
R116). -/
def chooseEntries (s : State) : (List Tag × List (Tag × Subchannel)) × State :=
  let ranged := s.rangeChoice
  let sounded := s.soundChoice
  let ranges := ranged.filterMap fun i => (s.ctx i).tag
  let sounds := (sounded.chosen.zip soundingUnits).filterMap fun (i, u) => (s.ctx i).tag.map fun t => (t, u)
  let contexts := Vector.ofFn fun i => (s.ctx i).chosen (ranged.contains i) (sounded.chosen.contains i)
  ((ranges, sounds), (s.setContexts contexts).setRefreshPtr (refreshAfter sounded.third s.refreshPtr))

end Sys2Proof.Machine
end

