-- ==== Sys2Proof/Machine/Placement.lean ====
section
/-! DEFINITION. The placement engine (R113 to R134): snapshot, ranking, serving, fallback, composition and
completion. -/
namespace Sys2Proof.Machine

/-! ### Snapshot (R114 to R116) -/

/-- The candidate copy of a slot in a direction, if it is a candidate (R114). -/
def State.candidate (s : State) (d : Direction) (i : Slot) : Option Candidate :=
  let c := s.ctx i
  match c.tag with
  | none => none
  | some t =>
    if c.life = .active ∧ 0 < c.backlog.at d then
      some { slot := i, tag := t, reach := c.reach, cls := c.cls
             q := Vector.ofFn fun b => c.quality b
             average := c.average.at d, backlog := c.backlog.at d
             stale := decide (s.profile.horizon ≤ c.age) }
    else none

/-- The candidates of a direction, in slot order (R114). -/
def State.candidates (s : State) (d : Direction) : List Candidate := allSlots.filterMap (s.candidate d)

/-- The copied band state (R115). -/
def State.bandCopies (s : State) : Vector BandCopy 6 :=
  Vector.ofFn fun b => { own := (s.own b).state, entry := (s.neighbour b).isSome }

/-- Begin the placement for interval `t`: snapshot, grids, STALE, chosen entries (R104, R113 to R116). -/
def beginPlacement (t : Interval) (s : State) : State :=
  let dl := s.candidates .dl
  let ul := s.candidates .ul
  let copies := s.bandCopies
  let begun := s.setInFlight 0
  let tested := if (dl ++ ul).any (·.stale) then raiseArithmetic .stale begun else begun
  let (entries, chosen) := chooseEntries tested
  chosen.setFlight (some
    { target := t, candidates := ⟨dl, ul⟩, bands := copies
      grids := freshGrids s.profile.soundingUnits
      ranges := entries.1, sounds := entries.2
      stage := .rank .dl, grants := [] })

/-! ### Ranking (R100 to R103, R117, R118) -/

/-- The allowed bands of a fresh candidate, with q' and efficiency, in band order (R98, R101, R117). -/
def allowedBands (p : Profile) (copies : Vector BandCopy 6) (c : Candidate) : List (Band × Quality) :=
  (allBands.filter fun b => (copies[b]).offeredTo c.reach).filterMap fun b =>
    let q' := derateQuality p.derate c.reach copies[b] c.q[b]
    if efficiency q' = 0 then none else some (b, q')

/-- The metric of a candidate on an allowed band (R100, R102). -/
def candidateMetric (p : Profile) (c : Candidate) (q' : Quality) : Nat × Option Condition :=
  metric p.rounding (efficiency q') c.cls c.average

/-- A fresh candidate ranked; none when it has no allowed band (R117, R118). -/
def rankCandidate (p : Profile) (copies : Vector BandCopy 6) (c : Candidate) : Option Ranked :=
  let higher := fun x y : Band × Quality => decide ((candidateMetric p c y.2).1 < (candidateMetric p c x.2).1)
  match sortBy higher (allowedBands p copies c) with
  | [] => none
  | b :: bs => some { cand := c, best := (candidateMetric p c b.2).1, bands := b :: bs }

/-- The fresh candidates of a direction (R117). -/
def Flight.fresh (f : Flight) (d : Direction) : List Candidate := (f.candidates.at d).filter fun c => !c.stale

/-- The ranked list of a direction: by best metric, equal ones by slot (R118). -/
def Flight.ranked (f : Flight) (p : Profile) (d : Direction) : List Ranked :=
  sortBy (fun x y => decide (y.best < x.best)) ((f.fresh d).filterMap (rankCandidate p f.bands))

/-- The arithmetic conditions the metrics of a direction raise (R101 to R103, R117). DESIGN CHOICE: no rule orders the
metrics of one ranking; the model takes them by candidate, lowest slot first, and within a candidate by band, lowest
first (log entry 8). -/
def Flight.metricConditions (f : Flight) (p : Profile) (d : Direction) : List Condition :=
  (f.fresh d).flatMap fun c => (allowedBands p f.bands c).filterMap fun b => (candidateMetric p c b.2).2

/-! ### Serving (R119 to R125) -/

/-- The units a candidate needs on a band (R119); `e` is above 0. -/
def unitsNeeded (d : Direction) (reach : Reach) (backlog e : Nat) : Nat :=
  let cap := match reach, d with
    | .far, .ul => 4
    | .far, .dl => 8
    | .near, _ => 8
  min cap ((backlog + e - 1) / e)

/-- The block sizes tried, from the smallest power of two at or above `u` down to 1 (R119, R120). -/
def sizesTried (u : Nat) : List Nat :=
  if u ≤ 1 then [1] else if u ≤ 2 then [2, 1] else if u ≤ 4 then [4, 2, 1] else [8, 4, 2, 1]

/-- The first block found on a band, in descending sizes: size and base (R120). -/
def searchBlock (g : Grid) (b : Band) (u : Nat) : Option (Nat × Nat) :=
  (sizesTried u).findSome? fun size => (findBlock g b size).map fun base => (size, base)

/-- A grant to be laid: band, q', base, size, count. -/
structure Lay where
  band : Band
  quality : Quality
  base : Nat
  size : Nat
  count : Nat
deriving DecidableEq, Repr

/-- The lay of a ranked candidate: its first allowed band that yields a block (R118 to R120). -/
def layRanked (g : Grid) (d : Direction) (r : Ranked) : Option Lay :=
  r.bands.findSome? fun (b, q') =>
    let u := unitsNeeded d r.cand.reach r.cand.backlog (efficiency q')
    (searchBlock g b u).map fun (size, base) =>
      { band := b, quality := q', base := base, size := size, count := min u size }

/-- The lay of a stale candidate: the lowest free subchannel among its fallback bands (R124, R125). -/
def layFallback (g : Grid) (copies : Vector BandCopy 6) (c : Candidate) : Option Lay :=
  ((List.range 48).find? fun j => (copies[bandOf j]).offeredTo c.reach && isFree g j).map fun j =>
    { band := bandOf j, quality := 1, base := j, size := 1, count := 1 }

/-- The granted bits of a lay (R122). -/
def Lay.bits (l : Lay) : Nat := l.count * efficiency l.quality

/-- The grant a lay makes for a candidate (R121, R122). -/
def Lay.grant (l : Lay) (t : Interval) (d : Direction) (o : VisitOrder) (c : Candidate) : Grant where
  dir := d
  slot := c.slot
  tag := c.tag
  band := l.band
  start := Fin.ofNat 48 (l.base + startOffset t c.slot l.size)
  size := l.size
  count := l.count
  order := o
  reach := c.reach
  quality := l.quality

/-- The grant record of a grant (R122, R136). -/
def Grant.record (g : Grant) (t : Interval) (granted : Nat) : Record where
  interval := t
  dir := g.dir
  slot := g.slot
  tag := g.tag
  band := g.band
  start := g.start
  size := g.size
  count := g.count
  order := g.order
  reach := g.reach
  quality := g.quality
  granted := granted
  carrier := none
  delivered := none
  orphan := false

/-- The live context after a grant (R122). -/
def Context.grantBits (c : Context) (d : Direction) (granted : Nat) : Context :=
  { c with backlog := c.backlog.put d (c.backlog.at d - granted)
           pending := c.pending.put d (c.pending.at d + granted) }

/-- The flight after a grant has been laid (R13, R121). -/
def Flight.laid (f : Flight) (d : Direction) (o : VisitOrder) (c : Candidate) (l : Lay) (next : Stage) : Flight :=
  { f with
    grids := f.grids.put d (occupy (f.grids.at d)
      (covered o l.base l.size (startOffset f.target c.slot l.size) l.count))
    grants := f.grants ++ [l.grant f.target d o c]
    stage := next }

/-- What a data grant writes outside the flight: the live context and the record (R122). -/
def recordGrant (t : Interval) (g : Grant) (granted : Nat) (s : State) : State :=
  (s.putCtx g.slot ((s.ctx g.slot).grantBits g.dir granted)).setRecords (s.records ++ [g.record t granted])

/-- Make a data grant: grid, live context, record (R121, R122). A candidate released earlier in the flight is still
placed (R132) until composition removes its entry (R127); no context is written for it and no record made, since a
record made after the release cannot name it (R147; log entry 9). -/
def makeGrant (f : Flight) (d : Direction) (c : Candidate) (l : Lay) (next : Stage) (s : State) : State :=
  let o := s.profile.orders.at d
  let written := if s.slotOf c.tag = some c.slot then recordGrant f.target (l.grant f.target d o c) l.bits s else s
  written.setFlight (some (f.laid d o c l next))

/-- The record list is full (R126). -/
def State.recordsFull (s : State) : Bool := decide (384 ≤ s.records.length)

/-- The stop for want of record space (R126). -/
def stopPlacing (f : Flight) (s : State) : State :=
  raise .recordsFull (s.setFlight (some { f with stage := .ended }))

/-- What one move of the engine does. -/
inductive Move where
  /-- A move that grants nothing. -/
  | quiet (s : State)
  /-- A data grant; `ranked` or by fallback. -/
  | granted (ranked : Bool) (s : State)
  /-- The stop for want of record space, before a data grant. -/
  | stopped (ranked : Bool) (s : State)
  /-- Placing has ended, or no placement is in flight. -/
  | ended
deriving DecidableEq, Repr

/-- One move of the engine: rank a direction, serve one ranked candidate, examine one slot, or pass to the next
stage (R116 to R126). -/
def engineMove (s : State) : Move :=
  match s.flight with
  | none => .ended
  | some f =>
    match f.stage with
    | .rank d =>
      let raised := (f.metricConditions s.profile d).foldl (fun s c => raiseArithmetic c s) s
      .quiet (raised.setFlight (some { f with stage := .serve d (f.ranked s.profile d) }))
    | .serve d [] => .quiet (s.setFlight (some { f with stage := .walk d (slotsFrom (s.fallbackPtr.at d)) }))
    | .serve d (r :: left) =>
      match layRanked (f.grids.at d) d r with
      | none => .quiet (s.setFlight (some { f with stage := .serve d left }))
      | some l =>
        if s.recordsFull then .stopped true (stopPlacing f s)
        else .granted true (makeGrant f d r.cand l (.serve d left) s)
    | .walk .dl [] => .quiet (s.setFlight (some { f with stage := .rank .ul }))
    | .walk .ul [] => .quiet (s.setFlight (some { f with stage := .ended }))
    | .walk d (i :: left) =>
      match (f.candidates.at d).find? fun c => decide (c.slot = i) && c.stale with
      | none => .quiet (s.setFlight (some { f with stage := .walk d left }))
      | some c =>
        match layFallback (f.grids.at d) f.bands c with
        | none => .quiet (s.setFlight (some { f with stage := .walk d left }))
        | some l =>
          if s.recordsFull then .stopped false (stopPlacing f s)
          else
            .granted false
              ((makeGrant f d c l (.walk d left) s).setFallbackPtr (s.fallbackPtr.put d (i + 1)))
    | .ended => .ended

/-- The moves of one placement are fewer than this: per direction one ranking, at most 96 ranked candidates, 96
slots examined, two changes of stage. -/
def movesBound : Nat := 400

/-- Move the engine to its next data grant (or stop), if that one is of the wanted kind; `none` if the next one is of
the other kind, or placing ends first. -/
def toGrant (ranked : Bool) : Nat → State → Option State
  | 0, _ => none
  | n + 1, s =>
    match engineMove s with
    | .quiet s' => toGrant ranked n s'
    | .granted r s' => if r = ranked then some s' else none
    | .stopped r s' => if r = ranked then some s' else none
    | .ended => none

/-- Let the engine finish placing. -/
def finishPlacing : Nat → State → State
  | 0, s => s
  | n + 1, s =>
    match engineMove s with
    | .quiet s' => finishPlacing n s'
    | .granted _ s' => finishPlacing n s'
    | .stopped _ s' => finishPlacing n s'
    | .ended => s

/-! ### Composition (R127 to R129) -/

/-- The tag is valid (R17). -/
def State.tagValid (s : State) (t : Tag) : Bool := (s.slotOf t).isSome

/-- The composed grant list: range, SOUND, then data entries in the order made, less those of tags no longer valid
(R127, R128). -/
def composedList (s : State) (f : Flight) : List ListEntry :=
  (f.ranges.map ListEntry.range ++ f.sounds.map (fun (t, u) => ListEntry.sound t u) ++
    f.grants.map ListEntry.data).filter fun e => s.tagValid e.tag

/-- Cut a list into pieces of 15; an empty list gives one empty piece (R129). -/
def cutList {α : Type} : Nat → List α → List (List α)
  | 0, xs => [xs]
  | n + 1, xs => if xs.length ≤ 15 then [xs] else xs.take 15 :: cutList n (xs.drop 15)

/-- The GRANT LIST pieces of a composed list (R129). -/
def listPieces (entries : List ListEntry) : List (List ListEntry) := cutList entries.length entries

/-- The entry is the data entry of a record. -/
def ListEntry.isOf (r : Record) : ListEntry → Bool
  | .data g => decide (g.dir = r.dir) && decide (g.tag = r.tag)
  | .range _ => false
  | .sound _ _ => false

/-- The record list at a completion: records of removed grants leave it, the others take their carrier (R127,
R138). -/
def carryRecords (s : State) (t : Interval) (entries : List ListEntry) : List Record :=
  (s.records.filter fun r => !(decide (r.interval = t) && !s.tagValid r.tag)).map fun r =>
    if r.interval = t then
      { r with carrier := (entries.findIdx? fun e => e.isOf r).map fun n => n / 15 }
    else r

/-- The GRANT LIST telegrams of a completion, in sequence order (R129). -/
def listTelegrams (partner : Station) (t : Interval) (pieces : List (List ListEntry)) : List TxTelegram :=
  pieces.zipIdx.map fun (piece, n) =>
    telegram .grantList partner (grantListPayload t n (n + 1 == pieces.length) piece) (.grantList t n)

/-- Some FAR candidate with a valid tag ends a direction without a data grant (R131). -/
def Flight.unmetFar (f : Flight) (s : State) : Bool :=
  [Direction.dl, Direction.ul].any fun d => (f.candidates.at d).any fun c =>
    decide (c.reach = .far) && s.tagValid c.tag &&
      !(f.grants.any fun g => decide (g.dir = d) && decide (g.slot = c.slot))

/-- The composed list carries a FAR data grant on the band (R84, R130). -/
def farOnBand (entries : List ListEntry) (b : Band) : Bool :=
  entries.any fun e =>
    match e with
    | .data g => decide (g.reach = .far) && decide (g.band = b)
    | .range _ => false
    | .sound _ _ => false

/-- The two open-interval entries of a completion (R130, R137), less one the list holds already. -/
def State.opened (s : State) (t : Interval) : List OpenInterval :=
  s.openIntervals ++ [⟨t, .dl, none⟩, ⟨t, .ul, none⟩].filter fun o => !s.isOpen t o.dir

/-- What the record list and the bus interface receive at a completion (R130, R138): carriers, register entry, the
two open intervals, and then the telegrams. -/
def handOver (t : Interval) (entries : List ListEntry) (s : State) : State :=
  let pieces := listPieces entries
  let entry : RegisterEntry := { interval := t, telegrams := pieces.map fun _ => .queued, late := false }
  let opened := ((s.setRecords (carryRecords s t entries)).setRegister (s.register ++ [entry])).setOpenIntervals
    (s.opened t)
  (listTelegrams s.profile.partner t pieces).foldl (fun s x => offer x s) opened

/-- What the claim controller receives at a completion (R76, R78, R84, R130). Idle releases that fall due come before
the claim decision, so the decision waits for them on the agenda (log entry 1). DESIGN CHOICE: no rule orders the
releases of several bands that reach idle count 128 at one completion, hence their BAND RELEASE telegrams; IDLE_RELEASE
rows may take them in any order, and those left go by band, lowest first (log entry 8). -/
def claimCompletion (unmetFar : Bool) (farBands : Band → Bool) (s : State) : State :=
  let due := allBands.filter fun b => (idleAfter (farBands b) (s.own b)).2
  let counted := updateIdle farBands (updateDemand unmetFar s)
  if due = [] then decideClaim counted
  else counted.setAgenda (due.map Due.idleRelease ++ [.newClaim])

/-- The deadline of interval `t`, if a pulse has made it due (R141). -/
def takeDeadline (t : Interval) (s : State) : State :=
  if s.deadlinesDue.contains t then deadline t (s.setDeadlinesDue (s.deadlinesDue.erase t)) else s

/-- After a completion so late that pulse t+4 has passed, the deadline of `t` and its two timeouts are taken at once
(R113, R137, R141, R144; log entry 13). DESIGN CHOICE: the deadline, then DL, then UL, no rule ordering them (log entry
8). -/
def catchUp (t : Interval) (s : State) : State :=
  if overdue s.interval t then timeoutClose t .ul (timeoutClose t .dl (takeDeadline t s)) else s

/-- Compose the placement and hand its results over; then none is in flight (R106, R127 to R131). DESIGN CHOICE: no rule
orders the four receivers of R130; the model takes the record list, the bus interface, the claim controller and the
metric unit in this order, so an ALERT raised in the hand-over shows the cause of the placement before (log entry 8). -/
def composePlacement (f : Flight) (s : State) : State :=
  let entries := composedList s f
  let handed := handOver f.target entries s
  let claimed := claimCompletion (f.unmetFar s) (farOnBand entries) handed
  ((claimed.setCause claimed.inFlight).setInFlight 0).setFlight none

/-- Complete the placement in flight (R127 to R131, R137). DESIGN CHOICE: in a completion past pulse t+4 with idle
releases due (R84), the deadline and the timeouts of t are taken at the completion itself, before the idle releases and the
claim decision that waits for them on the agenda; with none due, after the claim decision. No rule orders them (log
entries 8 and 15). -/
def completePlacement (s : State) : State :=
  match s.flight with
  | none => s
  | some f => catchUp f.target (composePlacement f s)

/-- A timing fault abandons the placement in flight, and those not begun (R106, R133). -/
def abandonPlacement (s : State) : State := ((s.setFlight none).setPlacementsDue []).setInFlight 0

end Sys2Proof.Machine
end

