-- ==== Sys2Proof/Machine/StationControl.lean ====
section
/-! DEFINITION. Station control and the interval timer (R4 to R8, R172 to R178): resets, start-up, pulses, marks,
timing faults, the reset sequence; and the agenda, the share of a step's work that the table lists as steps of
their own (log entry 1). -/
namespace Sys2Proof.Machine

/-! ### Resets -/

/-- The station reset takes effect (R177): every block at its station reset values; own station number, profile and
the level of RESET_N stay, and so does what is not the part's (the command queue, the free values' counter). -/
def stationReset (s : State) : State :=
  { State.reset with
    resetN := s.resetN, ownStation := s.ownStation, profile := s.profile, station := .syncing,
    freeCount := s.freeCount, pending := s.pending }

/-- A hardware reset (R178). -/
def hardwareReset (s : State) : State := { State.reset with freeCount := s.freeCount, pending := s.pending }

/-- The telegram is a BAND RELEASE of the reset sequence. -/
def TxTelegram.ofSequence (t : TxTelegram) : Bool :=
  match t.owner with
  | .bandRelease _ q => q
  | .claim _ => false
  | .grantList _ _ => false
  | .unreported => false
  | .disowned => false

/-- The reset sequence ends when none of its BAND RELEASE telegrams is left to be reported (R177). -/
def endSequence (s : State) : State :=
  if s.resetSeq.isSome ∧ s.txQueue.all (fun t => !t.ofSequence) then stationReset s else s

/-- One band at the start of a reset sequence (R93): an ANNOUNCED or HELD one goes to RELEASING, its waiting CLAIM is
removed, then its BAND RELEASE is offered. DESIGN CHOICE: the CLAIM of a band is removed just before that band's own
BAND RELEASE is offered, no rule saying when among the telegrams of several bands (log entry 8). -/
def sequenceRelease (s : State) (b : Band) : State :=
  let c := s.own b
  if c.claimed then releaseBand b true c s else s

/-- A RESET command (R93, R166, R177). DESIGN CHOICE: no rule orders the releases of several bands; the model goes band
by band, lowest first, so their BAND RELEASE telegrams are offered in that order (log entry 8). -/
def beginSequence (s : State) : State :=
  match s.resetSeq with
  | some _ => s
  | none => endSequence (allBands.foldl sequenceRelease (s.setResetSeq (some 0)))

/-! ### The pulse event

The counters advance by one for every item that does not reach its limit; an item that does is put on the agenda,
and its whole share of the pulse's work is done by its own step. -/

/-- The threshold a context's pulse work reaches, if any (R22, R25, R27). -/
def contextDue (p : Profile) (i : Slot) (c : Context) : Option Due :=
  match contextPulse p c with
  | .plain _ => none
  | .holdEnd _ => some (.admissionHoldEnd i)
  | .recovery _ => some (.silenceTimeout i)
  | .lost => some (.silenceTimeout i)
  | .dormant _ => some (.dormancy i)

/-- The context after the plain pulse work of the context table and the freshness controller (R29, R62). -/
def Context.pulsed (p : Profile) (c : Context) : Context :=
  match contextPulse p c with
  | .plain c' => c'.freshened
  | .holdEnd _ => c.freshened
  | .recovery _ => c.freshened
  | .lost => c.freshened
  | .dormant _ => c.freshened

/-- Sound pending reaches 8 at this pulse (R61). -/
def soundDue (i : Slot) (c : Context) : Option Due :=
  match c.sound with
  | some n => if 7 ≤ n then some (.soundPendingExpiry i) else none
  | none => none

/-- The quarantine of a tag ends at this pulse (R18). -/
def quarantineDue (t : Tag) (e : TagEntry) : Option Due :=
  if e.quarantine = 1 then some (.quarantineEnd t) else none

/-- The plain count-down of a quarantine (R18). -/
def TagEntry.pulsed (e : TagEntry) : TagEntry :=
  if e.quarantine ≤ 1 then e else { e with quarantine := e.quarantine - 1 }

/-- The thresholds of station control (R175, R177). -/
def stationDue (s : State) : List Due :=
  (if s.station = .listening ∧ s.listening ≤ 1 then [Due.listeningEnd] else []) ++
  (match s.resetSeq with
   | some n => if 1 ≤ n then [Due.resetSequenceTimeout] else []
   | none => [])

/-- All thresholds of a pulse event, at the current number `s.interval`, in the order in which the model does those no
command has asked for first (log entry 8). -/
def pulseAgenda (s : State) : List Due :=
  allSlots.filterMap (fun i => contextDue s.profile i (s.ctx i)) ++
  allSlots.filterMap (fun i => soundDue i (s.ctx i)) ++
  allTags.filterMap (fun t => quarantineDue t (s.tagEntry t)) ++
  allBands.flatMap (bandDue s) ++ stationDue s

/-- The plain count of station control (R175, R177). -/
def pulseStation (s : State) : State :=
  let listened := if s.station = .listening ∧ 1 < s.listening then s.setListening (s.listening - 1) else s
  match s.resetSeq with
  | some 0 => listened.setResetSeq (some 1)
  | some (_ + 1) => listened
  | none => listened

/-- The plain counts of the claim controller (R77). -/
def pulseClaims (s : State) : State :=
  ((s.setClaims (Vector.ofFn fun b => (s.own b).pulsed)).setNeighbours
    (Vector.ofFn fun b => (s.neighbour b).map PeerEntry.pulsed)).setSpacing (s.spacing - 1)

/-- The station takes placements at its pulse events (R113). -/
def State.places (s : State) : Bool :=
  match s.station with
  | .listening => true
  | .running => true
  | .loading => false
  | .halted => false
  | .syncing => false
  | .suspended => false

/-- The close timeout of an open interval is due at current number `now` (R144). -/
def OpenInterval.due (now : Interval) (o : OpenInterval) : Bool := overdue now o.interval

/-- The record list and placement work a pulse event makes due (R113, R141, R144). -/
def pulseWork (s : State) : State :=
  let n := s.interval
  let closes := (s.openIntervals.filter (·.due n)).map fun o => (o.interval, o.dir)
  let work := (s.setClosesDue closes).setDeadlinesDue (s.deadlinesDue ++ [n + 1])
  if s.places then work.setPlacementsDue (s.placementsDue ++ [n + 2]) else work

/-- The pulse event of current number `s.interval` (R5, R18, R29, R62, R77, R175, R177). DESIGN CHOICE: the context
table's work, the dormancy test of R27 and the silence timeouts among it, comes before the deadline rollbacks (R141)
and timeout closes (R144, R146) of the same pulse, which can restore backlog; no rule orders them (log entry 8). -/
def pulseEvent (s : State) : State :=
  let agenda := pulseAgenda s
  let contexts := s.setContexts (Vector.ofFn fun i => (s.ctx i).pulsed s.profile)
  let tags := contexts.setTags (Vector.ofFn fun t => (s.tagEntry t).pulsed)
  (pulseWork (pulseStation (pulseClaims tags))).setAgenda agenda

/-! ### The agenda -/

/-- The listening count reaches 0 (R175). -/
def endListening (s : State) : State :=
  if s.station = .listening then (s.setListening 0).setStation .running else s

/-- Do one item of the agenda. -/
def perform (d : Due) (s : State) : State :=
  match d with
  | .admissionHoldEnd i => pulseSlot i s
  | .silenceTimeout i => pulseSlot i s
  | .dormancy i => pulseSlot i s
  | .quarantineEnd t => s.putTag t { s.tagEntry t with quarantine := 0 }
  | .soundPendingExpiry i => expireSound i s
  | .bandHeld b => holdBand b s
  | .refreshClaim b => refreshBand b s
  | .settleEnd b => settleBand b s
  | .claimTransmitLimit b => limitClaim b s
  | .lastAssertExpiry b => expireAssert b s
  | .neighbourEntryExpiry b => expireNeighbour b s
  | .listeningEnd => endListening s
  | .resetSequenceTimeout => stationReset s
  | .idleRelease b => releaseIdle b s
  | .newClaim => decideClaim s

/-- Do what is left on the agenda, in its order: every step but those on the agenda themselves finds the latest event's
work done (log entry 1). -/
def settle (s : State) : State := s.agenda.foldl (fun s d => perform d s) (s.setAgenda [])

/-- A threshold step: the item's share of the work, if it is on the agenda; an item that is not has reached no limit
(log entry 2). A claim decision that waited for the last idle release follows it. -/
def threshold (d : Due) (s : State) : State :=
  if s.agenda.contains d then
    let done := perform d (s.setAgenda (s.agenda.erase d))
    if done.agenda = [.newClaim] then settle done else done
  else s

/-! ### Work of the record list left from the latest pulse -/

/-- The deadline of interval `t` waits for the placement of `t` (R113, R141). -/
def State.awaited (s : State) (t : Interval) : Bool :=
  s.placementsDue.contains t || s.flight.any fun f => decide (f.target = t)

/-- Take the close timeouts that are due (R144). DESIGN CHOICE: those no CLOSE_BY_TIMEOUT has asked for go in the order in
which the intervals were opened, DL before UL; the spec does not order them (R144; log entry 8). -/
def settleCloses (s : State) : State :=
  s.closesDue.foldl (fun s o => timeoutClose o.1 o.2 s) (s.setClosesDue [])

/-- Take the grant list deadlines that are due, but those that wait for their placement (R141). -/
def settleDeadlines (s : State) : State :=
  (s.deadlinesDue.filter fun t => !s.awaited t).foldl (fun s t => deadline t s)
    (s.setDeadlinesDue (s.deadlinesDue.filter s.awaited))

/-- All work the latest pulse event left, before the timer takes its next event (log entry 24). DESIGN CHOICE: the
thresholds, then the timeouts, then the deadlines; R144 leaves the timeouts and the deadline of one pulse unordered,
and the order shows in the ALERTs for USAGE_TIMEOUT and LATE_LIST (log entry 8). -/
def settleAll (s : State) : State := settleDeadlines (settleCloses (settle s))

/-! ### Timing faults and marks -/

/-- What the blocks do at a timing fault of either kind, TIMING_FAULT being raised first (R6, R8, R86, R133, R148). -/
def timingFault (s : State) : State := faultRefresh (abandonPlacement (discardRecords (raise .timingFault s)))

/-- The mark event at station control (R175, R176). -/
def markEvent (s : State) : State :=
  match s.station with
  | .syncing | .suspended =>
    match s.resume with
    | none => ((s.setStation .listening).setListening 128).setResume none
    | some .running => (s.setStation .running).setResume none
    | some .listening => (s.setStation .listening).setResume none
  | .loading => s
  | .halted => s
  | .listening => s
  | .running => s

/-- A rising edge of SPULSE (R4 to R7). -/
def pulseEdge (mark : Bool) (s : State) : State :=
  if s.acting then
    if s.synced then
      let counted := s.interval + 1
      if mark ∧ counted ≠ 0 then pulseEvent ((timingFault s).setInterval 0)
      else pulseEvent (s.setInterval counted)
    else if mark then markEvent ((s.setInterval 0).setSynced true)
    else s
  else s

/-- The station state a loss leaves (R176). -/
def suspend (s : State) : State :=
  match s.station with
  | .listening => (s.setResume (some .listening)).setStation .suspended
  | .running => (s.setResume (some .running)).setStation .suspended
  | .loading => s
  | .halted => s
  | .syncing => s
  | .suspended => s

/-- A pulse loss (R8, R176, R177). -/
def loseSync (s : State) : State :=
  if s.synced then
    let faulted := (timingFault s).setSynced false
    if faulted.resetSeq.isSome then stationReset faulted else suspend faulted
  else s

/-! ### Start-up -/

/-- RESET_N rises with the straps reading `n` (R172). -/
def enterLoading (n : Station) (s : State) : State :=
  if s.resetN then s
  else
    let read := ((s.setResetN true).setOwnStation n).setStation .loading
    if n = 15 then read.setStation .halted else read

/-- The profile read is complete (R173). -/
def loadProfile (image : List Byte) (s : State) : State :=
  if s.resetN ∧ s.station = .loading then
    if imageByte image 0 = 0x6C then (s.setProfile (profileOf image)).setStation .syncing
    else s.setStation .halted
  else s

end Sys2Proof.Machine
end

