-- ==== Sys2Proof/Machine/Reports.lean ====
section
/-! DEFINITION. Taking a telegram from the head of the receive buffer (R156), and the meanings of the modem reports:
ATTACH, DETACH, QUALITY, RANGE, BUFFER, USAGE (R39 to R58, R142). -/
namespace Sys2Proof.Machine

/-- Take the telegram at the head of the receive buffer if `mine` says it is this step's: it leaves the buffer and is
acted on in the acting station states, discarded in LOADING and HALTED (R39, R87, R156, R163). -/
def takeHead (mine : RxTelegram → Bool) (act : RxTelegram → State → State) (s : State) : State :=
  match s.rxBuffer with
  | [] => s
  | t :: rest =>
    if mine t then
      let taken := s.setRxBuffer rest
      if s.acting then act t taken else taken
    else s

/-- Act on what a payload reads as; one whose length differs from the layout is discarded without effect (R39, R87,
R155, R163). -/
def onPayload {α : Type} (read : List Byte → Option α) (act : α → State → State) (t : RxTelegram) (s : State) :
    State :=
  match read t.payload with
  | some r => act r s
  | none => s

/-- The telegram is of a kind. -/
def RxTelegram.isKind (k : Kind) (t : RxTelegram) : Bool := decide (t.kind = k)

/-- ATTACH (R43 to R47). -/
def execAttach (s : State) : Host.Outcome State Fault Refusal :=
  .next (takeHead (·.isKind .attach) (onPayload readAttach takeAttach) (settle s))

/-- DETACH (R48). -/
def execDetach (s : State) : Host.Outcome State Fault Refusal :=
  .next (takeHead (·.isKind .detach)
    (onPayload readTag fun t => onTag t fun i => releaseContext i .detached) (settle s))

/-- QUALITY (R49 to R51). -/
def execQuality (s : State) : Host.Outcome State Fault Refusal :=
  .next (takeHead (·.isKind .quality) (onPayload readQuality fun r => onTag r.tag (applyQuality r)) (settle s))

/-- RANGE (R52, R53). -/
def execRange (s : State) : Host.Outcome State Fault Refusal :=
  .next (takeHead (·.isKind .range) (onPayload readRange fun r => onTag r.tag (applyRange r)) (settle s))

/-- BUFFER (R54, R55). -/
def execBuffer (s : State) : Host.Outcome State Fault Refusal :=
  .next (takeHead (·.isKind .buffer) (onPayload readBuffer fun r => onTag r.tag (applyBuffer r)) (settle s))

/-- USAGE (R41, R142, R143). -/
def execUsage (s : State) : Host.Outcome State Fault Refusal :=
  .next (takeHead (·.isKind .usage) (onPayload readUsage takeUsage) (settle s))

end Sys2Proof.Machine
end

