-- ==== Sys2Proof/Machine/Management.lean ====
section
/-! DEFINITION. The management responder and the meanings of its telegrams: QUERY_BY_TAG, QUERY_OF_STATION, RELEASE,
RETRAIN, CLEAR, RESET (R33, R163 to R166, R170, R177). -/
namespace Sys2Proof.Machine

/-- Offer a STATUS to the management station (R164, R165). -/
def offerStatus (payload : List Byte) (s : State) : State :=
  offer (telegram .status s.profile.management payload .unreported) s

/-- Answer a QUERY by tag (R164). -/
def answerTag (t : Tag) (s : State) : State :=
  match s.slotOf t with
  | some i => offerStatus (statusContextPayload t i (s.ctx i)) s
  | none => offerStatus (statusAbsentPayload t) s

/-- Answer a QUERY of the station (R165); the free values it read are used up (log entry 10). -/
def answerStation (s : State) : State := (offerStatus (statusStationPayload s) s).setFreeCount (s.freeCount + 1)

/-- The telegram is a QUERY that is not the other step's: one by tag, or one the responder discards (R163; log entry
3). -/
def RxTelegram.isTagQuery (t : RxTelegram) : Bool :=
  t.isKind .query && decide (readQuery t.payload ≠ some .ofStation)

/-- The telegram is a QUERY of the station, or one the responder discards (R163). -/
def RxTelegram.isStationQuery (t : RxTelegram) : Bool :=
  t.isKind .query &&
    match readQuery t.payload with
    | some (.byTag _) => false
    | some .ofStation => true
    | none => true

/-- Answer a QUERY by its selector. A QUERY taken after a pulse reports the values of the whole of that pulse's work
(R163), so the timeouts and deadlines the pulse left are taken before the STATUS is formed (log entry 24). DESIGN CHOICE: the
timeouts come first, then the deadlines, which R144 does not order among themselves (log entry 8). -/
def answer (q : Query) (s : State) : State :=
  let done := settleDeadlines (settleCloses s)
  match q with
  | .byTag t => answerTag t done
  | .ofStation => answerStation done

/-- A management RELEASE of a tag (R33, R166). -/
def releaseTag (t : Tag) (s : State) : State :=
  match s.slotOf t with
  | some i => releaseContext i .forced s
  | none => s

/-- A management RETRAIN of a tag (R33). -/
def retrainTag (t : Tag) (s : State) : State :=
  match s.slotOf t with
  | some i =>
    match (s.ctx i).life with
    | .active => s.putCtx i (s.ctx i).enterRecovery
    | .dormant => s.putCtx i (s.ctx i).enterRecovery
    | .free => s
    | .admitting => s
    | .recovery => s
  | none => s

/-- A CLEAR of the flags a mask names (R170). -/
def clearFlags (mask : BitVec 16) (s : State) : State := s.setFlags (s.flags &&& ~~~mask)

/-- Read the payload of a RESET: it has none (R163). -/
def readReset (p : List Byte) : Option Unit := if p.length = 0 then some () else none

/-- QUERY_BY_TAG (R164). -/
def execQueryByTag (s : State) : Host.Outcome State Fault Refusal :=
  .next (takeHead RxTelegram.isTagQuery (onPayload readQuery answer) (settle s))

/-- QUERY_OF_STATION (R165). -/
def execQueryOfStation (s : State) : Host.Outcome State Fault Refusal :=
  .next (takeHead RxTelegram.isStationQuery (onPayload readQuery answer) (settle s))

/-- RELEASE (R33). -/
def execRelease (s : State) : Host.Outcome State Fault Refusal :=
  .next (takeHead (·.isKind .release) (onPayload readTag releaseTag) (settle s))

/-- RETRAIN (R33). -/
def execRetrain (s : State) : Host.Outcome State Fault Refusal :=
  .next (takeHead (·.isKind .retrain) (onPayload readTag retrainTag) (settle s))

/-- CLEAR (R170). -/
def execClear (s : State) : Host.Outcome State Fault Refusal :=
  .next (takeHead (·.isKind .clear) (onPayload readClear clearFlags) (settle s))

/-- RESET (R93, R166, R177). -/
def execReset (s : State) : Host.Outcome State Fault Refusal :=
  .next (takeHead (·.isKind .reset) (onPayload readReset fun _ => beginSequence) (settle s))

end Sys2Proof.Machine
end

