-- ==== Sys2Proof/Machine/Peers.lean ====
section
/-! DEFINITION. The meanings of the peer telegrams: CLAIM, BAND_RELEASE, ADMIT (R35 to R37, R87 to R91). -/
namespace Sys2Proof.Machine

/-- A kept CLAIM at the claim controller (R87). -/
def takeClaim (t : RxTelegram) (s : State) : State :=
  onPayload readClaim (fun c s =>
    match bandField c.band with
    | some b => if t.source = s.ownStation then s else hearClaim t.source b c.interval s
    | none => s) t s

/-- A kept BAND RELEASE at the claim controller (R87, R91). -/
def takeBandRelease (t : RxTelegram) (s : State) : State :=
  onPayload readBandRelease (fun n s =>
    match bandField n with
    | some b => if t.source = s.ownStation then s else hearRelease t.source b s
    | none => s) t s

/-- CLAIM (R87 to R90). -/
def execClaim (s : State) : Host.Outcome State Fault Refusal :=
  .next (takeHead (·.isKind .claim) takeClaim (settle s))

/-- BAND_RELEASE (R91). -/
def execBandRelease (s : State) : Host.Outcome State Fault Refusal :=
  .next (takeHead (·.isKind .bandRelease) takeBandRelease (settle s))

/-- ADMIT (R35 to R37). -/
def execAdmit (s : State) : Host.Outcome State Fault Refusal :=
  .next (takeHead (·.isKind .admission) (fun t => onPayload readAdmit (takeAdmit t.source) t) (settle s))

end Sys2Proof.Machine
end

