-- ==== Sys2Proof/Machine/Placing.lean ====
section
/-! DEFINITION. The meanings of the placement steps: PLACEMENT_BEGIN, DATA_GRANT, FALLBACK_GRANT,
PLACEMENT_COMPLETION. -/
namespace Sys2Proof.Machine

/-- Begin the oldest placement that a pulse event has made due, unless one is in flight (R113). -/
def beginDue (s : State) : State :=
  match s.flight, s.placementsDue with
  | none, t :: later => beginPlacement t (s.setPlacementsDue later)
  | none, [] => s
  | some _, _ => s

/-- PLACEMENT_BEGIN (R113 to R116). -/
def execPlacementBegin (s : State) : Host.Outcome State Fault Refusal := .next (beginDue (settle s))

/-- DATA_GRANT (R122): the next data grant, if it is a ranked one. -/
def execDataGrant (s : State) : Host.Outcome State Fault Refusal :=
  .next ((toGrant true movesBound (settle s)).getD (settle s))

/-- FALLBACK_GRANT (R125): the next data grant, if it is one by fallback. -/
def execFallbackGrant (s : State) : Host.Outcome State Fault Refusal :=
  .next ((toGrant false movesBound (settle s)).getD (settle s))

/-- PLACEMENT_COMPLETION (R127 to R131): whatever placing is left is done first, and the timeouts of the latest pulse
have been taken (R137; log entries 13 and 15). -/
def execPlacementCompletion (s : State) : Host.Outcome State Fault Refusal :=
  let ready := settle s
  if ready.flight.isSome then .next (completePlacement (finishPlacing movesBound (settleCloses ready)))
  else .next ready

end Sys2Proof.Machine
end

