-- ==== Sys2Proof/Machine/RecordList.lean ====
section
/-! DEFINITION. The meanings of the record list's pulse steps: GRANT_LIST_DEADLINE and CLOSE_BY_TIMEOUT. -/
namespace Sys2Proof.Machine

/-- GRANT_LIST_DEADLINE (R141): of interval `t`, if it is due and does not wait for its placement. DESIGN CHOICE: the
dormancy test of the pulse (R27) has been made before the rollback (log entry 8). -/
def execGrantListDeadline (t : Interval) (s : State) : Host.Outcome State Fault Refusal :=
  let ready := settle s
  if ready.deadlinesDue.contains t ∧ ready.awaited t = false then
    .next (deadline t (ready.setDeadlinesDue (ready.deadlinesDue.erase t)))
  else .next ready

/-- CLOSE_BY_TIMEOUT (R144): of interval `t` and direction `d`, if it is due. DESIGN CHOICE: the context table's work of
the pulse (hold ends, silence timeouts, LOST releases) has been done before the close, which R146 leaves open; a
context that leaves or enters ACTIVE at the pulse is seen as it then stands (log entry 8). -/
def execCloseByTimeout (t : Interval) (d : Direction) (s : State) : Host.Outcome State Fault Refusal :=
  let ready := settle s
  if ready.closesDue.contains (t, d) then
    .next (timeoutClose t d (ready.setClosesDue (ready.closesDue.erase (t, d))))
  else .next ready

end Sys2Proof.Machine
end

