-- ==== Sys2Proof/Machine/StartUp.lean ====
section
/-! DEFINITION. The meanings of the start-up and reset steps: HARDWARE_RESET, LOADING, PROFILE_LOAD, LISTENING_END,
RESET_SEQUENCE_TIMEOUT. -/
namespace Sys2Proof.Machine

/-- HARDWARE_RESET (R178). -/
def execHardwareReset (s : State) : Host.Outcome State Fault Refusal := .next (hardwareReset s)

/-- LOADING (R172). -/
def execLoading (straps : Station) (s : State) : Host.Outcome State Fault Refusal :=
  .next (enterLoading straps (settle s))

/-- PROFILE_LOAD (R173). -/
def execProfileLoad (image : List Byte) (s : State) : Host.Outcome State Fault Refusal :=
  .next (loadProfile image (settle s))

/-- LISTENING_END (R175). -/
def execListeningEnd (s : State) : Host.Outcome State Fault Refusal := .next (threshold .listeningEnd s)

/-- RESET_SEQUENCE_TIMEOUT (R177). -/
def execResetSequenceTimeout (s : State) : Host.Outcome State Fault Refusal :=
  .next (threshold .resetSequenceTimeout s)

end Sys2Proof.Machine
end

