-- ==== Sys2Proof/Machine/Thresholds.lean ====
section
/-! DEFINITION. The meanings of the threshold steps of contexts, tags, bands and neighbour entries. Each does its
item's share of the latest event's work (log entries 1 and 2). -/
namespace Sys2Proof.Machine

/-- ADMISSION_HOLD_END (R22). -/
def execAdmissionHoldEnd (i : Slot) (s : State) : Host.Outcome State Fault Refusal :=
  .next (threshold (.admissionHoldEnd i) s)

/-- SILENCE_TIMEOUT (R25). -/
def execSilenceTimeout (i : Slot) (s : State) : Host.Outcome State Fault Refusal :=
  .next (threshold (.silenceTimeout i) s)

/-- DORMANCY (R27). -/
def execDormancy (i : Slot) (s : State) : Host.Outcome State Fault Refusal := .next (threshold (.dormancy i) s)

/-- QUARANTINE_END (R18). -/
def execQuarantineEnd (t : Tag) (s : State) : Host.Outcome State Fault Refusal :=
  .next (threshold (.quarantineEnd t) s)

/-- SOUND_PENDING_EXPIRY (R61). -/
def execSoundPendingExpiry (i : Slot) (s : State) : Host.Outcome State Fault Refusal :=
  .next (threshold (.soundPendingExpiry i) s)

/-- BAND_HELD (R81). -/
def execBandHeld (b : Band) (s : State) : Host.Outcome State Fault Refusal := .next (threshold (.bandHeld b) s)

/-- REFRESH_CLAIM (R82). -/
def execRefreshClaim (b : Band) (s : State) : Host.Outcome State Fault Refusal :=
  .next (threshold (.refreshClaim b) s)

/-- SETTLE_END (R85). -/
def execSettleEnd (b : Band) (s : State) : Host.Outcome State Fault Refusal := .next (threshold (.settleEnd b) s)

/-- CLAIM_TRANSMIT_LIMIT (R79). -/
def execClaimTransmitLimit (b : Band) (s : State) : Host.Outcome State Fault Refusal :=
  .next (threshold (.claimTransmitLimit b) s)

/-- LAST_ASSERT_EXPIRY (R77). -/
def execLastAssertExpiry (b : Band) (s : State) : Host.Outcome State Fault Refusal :=
  .next (threshold (.lastAssertExpiry b) s)

/-- NEIGHBOUR_ENTRY_EXPIRY (R91). -/
def execNeighbourEntryExpiry (b : Band) (s : State) : Host.Outcome State Fault Refusal :=
  .next (threshold (.neighbourEntryExpiry b) s)

/-- IDLE_RELEASE (R84, R85). -/
def execIdleRelease (b : Band) (s : State) : Host.Outcome State Fault Refusal := .next (threshold (.idleRelease b) s)

end Sys2Proof.Machine
end

