-- ==== Sys2Proof/Machine/Timing.lean ====
section
/-! DEFINITION. The meanings of the interval timer's events: SPULSE_EDGE and PULSE_LOSS. -/
namespace Sys2Proof.Machine

/-- SPULSE_EDGE (R4 to R7). -/
def execSpulseEdge (mark : Bool) (s : State) : Host.Outcome State Fault Refusal :=
  .next (pulseEdge mark (settleAll s))

/-- PULSE_LOSS (R8, R176). -/
def execPulseLoss (s : State) : Host.Outcome State Fault Refusal := .next (loseSync (settleAll s))

end Sys2Proof.Machine
end

