-- ==== Sys2Proof/Machine/Wire.lean ====
section
/-! DEFINITION. The wire side of the bus interface: the receive filter and buffer (R155, R156), arbitration (R152), the
end of a transmission and the transmit error (R153, R159), and the meanings of FRAME_RECEIVED,
FRAME_TRANSMIT_START, FRAME_SENT and TRANSMIT_ERROR. -/
namespace Sys2Proof.Machine

/-- The source has the role its kind requires; kinds the part does not act on have none (R154, R155). -/
def State.roleHolds (s : State) (k : Kind) (source : Station) : Bool :=
  match k with
  | .claim | .bandRelease | .admission => s.profile.neighbourMask.getLsbD source.val
  | .usage | .attach | .range | .quality | .buffer | .detach => decide (source = s.profile.partner)
  | .query | .release | .retrain | .clear | .reset => decide (source = s.profile.management)
  | .grantList | .tagAssign | .attachRefuse | .releaseNotice | .status | .alert => false

/-- The receive filter (R155). -/
def State.keeps (s : State) (f : Frame) : Option RxTelegram :=
  match Kind.ofCode f.code with
  | none => none
  | some k =>
    if (f.dest = s.ownStation ∨ f.dest = 15) ∧ f.source ≠ 15 ∧ s.roleHolds k f.source = true then
      some { kind := k, source := f.source, payload := f.payload }
    else none

/-- A kept telegram enters the receive buffer, or is dropped with RX_OVERRUN (R156). -/
def receive (t : RxTelegram) (s : State) : State :=
  if s.rxBuffer.length < 8 then s.setRxBuffer (s.rxBuffer ++ [t]) else raise .rxOverrun s

/-- The telegram on the wire. -/
def State.wire (s : State) : Option TxTelegram := s.txQueue.find? (·.onWire)

/-- The frame a telegram is sent as (R151, R160): source the own station. -/
def TxTelegram.frame (own : Station) (t : TxTelegram) : Frame where
  code := t.kind.code
  source := own
  dest := t.dest
  payload := t.payload

/-- The cells of a frame (R151, R155, R156, R161). While a telegram is on the wire the cells on the bus are the part's
own frame, which its receive path is not given (R152; log entry 18). -/
def receiveCells (cells : List Bool) (s : State) : State :=
  if s.acting ∧ s.wire = none then
    match (readFrame cells).bind s.keeps with
    | some t => receive t s
    | none => s
  else s

/-- The telegram on the wire leaves the queue. -/
def State.clearWire (s : State) : State := s.setTxQueue (s.txQueue.filter fun t => !t.onWire)

/-- The report that a telegram was sent (R79, R139, R160). -/
def reportSent (o : Owner) (s : State) : State :=
  match o with
  | .claim b => claimSent b s
  | .grantList t n => listSent t n s
  | .bandRelease _ _ => s
  | .unreported => s
  | .disowned => s

/-- The report that a telegram was removed on request (R79, R141, R159). -/
def reportRemoved (o : Owner) (s : State) : State :=
  match o with
  | .claim b => claimGone b s
  | .grantList t n => listWithdrawn t n s
  | .bandRelease _ _ => s
  | .unreported => s
  | .disowned => s

/-- The end cell of the frame on the wire has passed (R153). -/
def finishFrame (s : State) : State :=
  match s.wire with
  | none => s
  | some t => endSequence (reportSent t.owner s.clearWire)

/-- A transmit error of the frame on the wire: removed if that was asked, dropped at the third attempt, kept for
another attempt else (R153, R159). -/
def abandonFrame (s : State) : State :=
  match s.wire with
  | none => s
  | some t =>
    if t.removal then endSequence (reportRemoved t.owner s.clearWire)
    else if 3 ≤ t.attempts + 1 then endSequence (reportDropped t.owner (raise .txFail s.clearWire))
    else
      s.setTxQueue (updateFirst (·.onWire) (fun x => { x with attempts := x.attempts + 1, onWire := false })
        s.txQueue)

/-- Begin the first telegram in queue order against what is read back over the nine arbitration cells: at the first
cell that differs, a recessive one driven is a lost arbitration, a dominant one driven is a transmit error (R152,
R157). -/
def beginFrame (bus : BitVec 9) (s : State) : State :=
  if s.acting ∧ s.wire = none then
    match firstInOrder s.txQueue with
    | none => s
    | some t =>
      let cells := arbitrationCells t.kind s.ownStation
      let begun := s.setTxQueue (updateFirst (fun x => x.kind.priority == firstClass s.txQueue)
        (fun x => { x with onWire := true }) s.txQueue)
      if bus < cells then s
      else if cells < bus then abandonFrame begun
      else begun
  else s

/-- FRAME_RECEIVED (R151, R155, R156). -/
def execFrameReceived (cells : List Bool) (s : State) : Host.Outcome State Fault Refusal :=
  .next (receiveCells cells (settle s))

/-- FRAME_TRANSMIT_START (R152). -/
def execFrameTransmitStart (bus : BitVec 9) (s : State) : Host.Outcome State Fault Refusal :=
  .next (beginFrame bus (settle s))

/-- FRAME_SENT (R153). -/
def execFrameSent (s : State) : Host.Outcome State Fault Refusal := .next (finishFrame (settle s))

/-- TRANSMIT_ERROR (R153). -/
def execTransmitError (s : State) : Host.Outcome State Fault Refusal := .next (abandonFrame (settle s))

end Sys2Proof.Machine
end

