-- ==== Sys2Proof/Machine/Dispatch.lean ====
section
/-! DEFINITION. One arm per command. -/
namespace Sys2Proof.Machine

/-- The effect of a command on everything but the queue. -/
def exec (i : Instr) (s : State) : Host.Outcome State Fault Refusal :=
  match i with
  | .hardwareReset => Sys2Proof.Machine.execHardwareReset s
  | .loading straps => Sys2Proof.Machine.execLoading straps s
  | .profileLoad image => Sys2Proof.Machine.execProfileLoad image s
  | .spulseEdge mark => Sys2Proof.Machine.execSpulseEdge mark s
  | .pulseLoss => Sys2Proof.Machine.execPulseLoss s
  | .admissionHoldEnd slot => Sys2Proof.Machine.execAdmissionHoldEnd slot s
  | .silenceTimeout slot => Sys2Proof.Machine.execSilenceTimeout slot s
  | .dormancy slot => Sys2Proof.Machine.execDormancy slot s
  | .quarantineEnd tag => Sys2Proof.Machine.execQuarantineEnd tag s
  | .soundPendingExpiry slot => Sys2Proof.Machine.execSoundPendingExpiry slot s
  | .bandHeld band => Sys2Proof.Machine.execBandHeld band s
  | .refreshClaim band => Sys2Proof.Machine.execRefreshClaim band s
  | .settleEnd band => Sys2Proof.Machine.execSettleEnd band s
  | .claimTransmitLimit band => Sys2Proof.Machine.execClaimTransmitLimit band s
  | .lastAssertExpiry band => Sys2Proof.Machine.execLastAssertExpiry band s
  | .neighbourEntryExpiry band => Sys2Proof.Machine.execNeighbourEntryExpiry band s
  | .listeningEnd => Sys2Proof.Machine.execListeningEnd s
  | .resetSequenceTimeout => Sys2Proof.Machine.execResetSequenceTimeout s
  | .placementBegin => Sys2Proof.Machine.execPlacementBegin s
  | .dataGrant => Sys2Proof.Machine.execDataGrant s
  | .fallbackGrant => Sys2Proof.Machine.execFallbackGrant s
  | .placementCompletion => Sys2Proof.Machine.execPlacementCompletion s
  | .idleRelease band => Sys2Proof.Machine.execIdleRelease band s
  | .grantListDeadline t => Sys2Proof.Machine.execGrantListDeadline t s
  | .closeByTimeout t d => Sys2Proof.Machine.execCloseByTimeout t d s
  | .frameReceived cells => Sys2Proof.Machine.execFrameReceived cells s
  | .attach => Sys2Proof.Machine.execAttach s
  | .detach => Sys2Proof.Machine.execDetach s
  | .quality => Sys2Proof.Machine.execQuality s
  | .range => Sys2Proof.Machine.execRange s
  | .buffer => Sys2Proof.Machine.execBuffer s
  | .usage => Sys2Proof.Machine.execUsage s
  | .claim => Sys2Proof.Machine.execClaim s
  | .bandRelease => Sys2Proof.Machine.execBandRelease s
  | .peerAdmit => Sys2Proof.Machine.execAdmit s
  | .queryByTag => Sys2Proof.Machine.execQueryByTag s
  | .queryOfStation => Sys2Proof.Machine.execQueryOfStation s
  | .release => Sys2Proof.Machine.execRelease s
  | .retrain => Sys2Proof.Machine.execRetrain s
  | .clear => Sys2Proof.Machine.execClear s
  | .reset => Sys2Proof.Machine.execReset s
  | .frameTransmitStart bus => Sys2Proof.Machine.execFrameTransmitStart bus s
  | .frameSent => Sys2Proof.Machine.execFrameSent s
  | .transmitError => Sys2Proof.Machine.execTransmitError s

end Sys2Proof.Machine
end

