-- ==== Sys2Proof/Safety.lean ====
section
/-! DEFINITION. The terms in which statements speak of the state: frames (which fields a command leaves alone) and the
laws the chapters state once for the whole part. -/
namespace Sys2Proof.Machine

/-! ### Frames -/

/-- The fields of the state, for frames. -/
inductive Field where
  | resetN
  | ownStation
  | profile
  | station
  | resume
  | listening
  | resetSeq
  | interval
  | synced
  | contexts
  | tags
  | tagPtr
  | refreshPtr
  | claims
  | farDemand
  | spacing
  | neighbours
  | cause
  | inFlight
  | flight
  | placementsDue
  | fallbackPtr
  | records
  | openIntervals
  | register
  | deadlinesDue
  | closesDue
  | txQueue
  | rxBuffer
  | flags
  | agenda
  | freeCount
  | pending
deriving DecidableEq, Repr

/-- Two states agree on a field. -/
def State.agree (s t : State) : Field → Prop
  | .resetN => t.resetN = s.resetN
  | .ownStation => t.ownStation = s.ownStation
  | .profile => t.profile = s.profile
  | .station => t.station = s.station
  | .resume => t.resume = s.resume
  | .listening => t.listening = s.listening
  | .resetSeq => t.resetSeq = s.resetSeq
  | .interval => t.interval = s.interval
  | .synced => t.synced = s.synced
  | .contexts => t.contexts = s.contexts
  | .tags => t.tags = s.tags
  | .tagPtr => t.tagPtr = s.tagPtr
  | .refreshPtr => t.refreshPtr = s.refreshPtr
  | .claims => t.claims = s.claims
  | .farDemand => t.farDemand = s.farDemand
  | .spacing => t.spacing = s.spacing
  | .neighbours => t.neighbours = s.neighbours
  | .cause => t.cause = s.cause
  | .inFlight => t.inFlight = s.inFlight
  | .flight => t.flight = s.flight
  | .placementsDue => t.placementsDue = s.placementsDue
  | .fallbackPtr => t.fallbackPtr = s.fallbackPtr
  | .records => t.records = s.records
  | .openIntervals => t.openIntervals = s.openIntervals
  | .register => t.register = s.register
  | .deadlinesDue => t.deadlinesDue = s.deadlinesDue
  | .closesDue => t.closesDue = s.closesDue
  | .txQueue => t.txQueue = s.txQueue
  | .rxBuffer => t.rxBuffer = s.rxBuffer
  | .flags => t.flags = s.flags
  | .agenda => t.agenda = s.agenda
  | .freeCount => t.freeCount = s.freeCount
  | .pending => t.pending = s.pending

/-- `t` is `s` but for the fields of the list. -/
def Keeps (changed : List Field) (s t : State) : Prop := ∀ f, f ∉ changed → s.agree t f

/-! ### The laws of the part -/

/-- The state of a part that is LOADING or HALTED: reset values but for RESET_N, the own station number, the profile and
the station state (R4, R38, R71, R112, R134, R149, R161, R174). -/
def State.quiet (s : State) : State :=
  { State.reset with
    resetN := s.resetN, ownStation := s.ownStation, profile := s.profile, station := s.station,
    freeCount := s.freeCount, pending := s.pending }

/-- Station and timer: synchronised exactly in LISTENING and RUNNING, a resume state exactly in SUSPENDED, LOADING while
RESET_N is low, reset values while LOADING or HALTED (R4, R7, R8, R174 to R178). -/
def StationLaw (s : State) : Prop :=
  (s.synced = true ↔ s.station = .listening ∨ s.station = .running) ∧
  (s.resume ≠ none ↔ s.station = .suspended) ∧
  (s.resetN = false → s.station = .loading) ∧
  (s.acting = false → s = s.quiet)

/-- Sizes: transmit queue, receive buffer, record list, at most one telegram on the wire, attempt counts 0 to 2
(R126, R136, R156, R158; state table of 09_site_coordination_bus_and_formats.md). -/
def SizeLaw (s : State) : Prop :=
  s.txQueue.length ≤ 24 ∧ s.rxBuffer.length ≤ 8 ∧ s.records.length ≤ 384 ∧
  (s.txQueue.filter (·.onWire)).length ≤ 1 ∧ ∀ t ∈ s.txQueue, t.attempts ≤ 2

/-- The law of the map and the own claims (R74). -/
def MapLaw (s : State) : Prop := ∀ b, (s.own b).claimed = true → s.neighbour b = none

/-- The law of the quota (R78). -/
def QuotaLaw (s : State) : Prop := s.claimedBands ≤ s.profile.quota

/-- The law of the table and the tag map (R16, R17, R19). -/
def TableLaw (s : State) : Prop :=
  (∀ t i, s.slotOf t = some i → (s.ctx i).tag = some t ∧ (s.tagEntry t).quarantine = 0) ∧
  (∀ i t, (s.ctx i).tag = some t → s.slotOf t = some i) ∧
  (∀ i, (s.ctx i).inUse = true ↔ (s.ctx i).tag ≠ none) ∧
  (∀ i, (s.ctx i).inUse = true ↔ (s.ctx i).identity ≠ none) ∧
  (∀ i j, (s.ctx i).inUse = true → (s.ctx i).identity = (s.ctx j).identity → i = j) ∧
  s.tagsTaken ≤ 192

/-- What `bits` sums to over a slot's unorphaned records in a direction that satisfy `p`. -/
def State.sumOver (s : State) (p : Record → Bool) (bits : Record → Nat) (i : Slot) (d : Direction) : Nat :=
  ((s.records.filter fun r => p r && decide (r.slot = i) && decide (r.dir = d) && !r.orphan).map bits).sum

/-- The granted bits of a slot's unorphaned records in a direction. -/
def State.outstanding (s : State) (i : Slot) (d : Direction) : Nat := s.sumOver (fun _ => true) (·.granted) i d

/-- The law of pending (R140), with what makes it hold: an unorphaned record names a context by its present tag. -/
def PendingLaw (s : State) : Prop :=
  (∀ i d, (s.ctx i).pending.at d = s.outstanding i d) ∧
  ∀ r ∈ s.records, r.orphan = false → (s.ctx r.slot).tag = some r.tag

/-- The profile values in their ranges (R173). -/
def Profile.inRange (p : Profile) : Prop :=
  p.quota ≤ 6 ∧ p.soundingUnits ≤ 4 ∧ (3 ≤ p.smoothing ∧ p.smoothing ≤ 10) ∧ p.derate ≤ 7 ∧
  (50 ≤ p.horizon ∧ p.horizon ≤ 1000) ∧ p.farTa ≤ 1023 ∧ p.farQ ≤ 15 ∧ p.taLimit ≤ 1023 ∧
  (1 ≤ p.drift ∧ p.drift ≤ 63) ∧ (100 ≤ p.dormancyTime ∧ p.dormancyTime ≤ 4000) ∧ p.initialAverage ≤ metricMax

/-- The counted values of a context in their ranges (R15, R50, R110, R140). -/
def Context.inRange (p : Profile) (c : Context) : Prop :=
  (∀ d, c.average.at d ≤ metricMax) ∧ (∀ d, c.backlog.at d ≤ backlogMax) ∧ c.ta ≤ p.taLimit ∧ c.age ≤ 4095 ∧
  (∀ n, c.sound = some n → n ≤ 8) ∧ c.silence ≤ 4000 ∧ c.dormancy ≤ 4000 ∧ c.hold ≤ 4 ∧ c.rangeRepeat ≤ 8

/-- An own claim record as its state has it: announcement interval in ANNOUNCED and HELD, the lead, refresh or settle
count in its range, none in FREE; backoff and idle counts in theirs (R73, R81, R82, R85). -/
def OwnClaim.inRange (c : OwnClaim) : Prop :=
  (c.announced ≠ none ↔ c.claimed = true) ∧ c.backoff ≤ 64 ∧ c.idle ≤ 128 ∧
  match c.state with
  | .free => c.phase = none
  | .announced => ∀ n, c.phase = some n → n ≤ 8
  | .held => ∃ n, c.phase = some n ∧ n ≤ 64
  | .releasing => ∃ n, c.phase = some n ∧ n ≤ 4

/-- Ranges of every counted value (R15, R17, R50, R73, R74, R110, R140, R173, R175, R177). -/
def RangeLaw (s : State) : Prop :=
  s.profile.inRange ∧ (∀ i, (s.ctx i).inRange s.profile) ∧ (∀ g, (s.tagEntry g).quarantine ≤ 64) ∧
  (∀ b, (s.own b).inRange) ∧ (∀ b e, s.neighbour b = some e → e.age ≤ 191) ∧ s.farDemand ≤ 8 ∧ s.spacing ≤ 16 ∧
  s.listening ≤ 128 ∧ ∀ n, s.resetSeq = some n → n ≤ 1

/-- Every backlog lies in its range (R140). -/
def BacklogLaw (s : State) : Prop := ∀ i d, (s.ctx i).backlog.at d ≤ backlogMax

/-- The law of the open intervals: no direction has more than 6 (R137). What makes it hold: none is listed twice, one
past its pulse t+4 is due to close, and without synchronisation there is none, and no placement. -/
def OpenLaw (s : State) : Prop :=
  (s.synced = false → s.flight = none ∧ s.placementsDue = [] ∧ s.openIntervals = []) ∧
  (s.openIntervals.map fun o => (o.interval, o.dir)).Nodup ∧
  (∀ o ∈ s.openIntervals, overdue s.interval o.interval = true → (o.interval, o.dir) ∈ s.closesDue) ∧
  ∀ d, (s.openIntervals.filter fun o => decide (o.dir = d)).length ≤ 6

/-- The subchannels a grant covers (R13). -/
def Grant.units (g : Grant) : List Nat := coveredOf g.order g.start.val g.size g.count

/-- The geometry of one grant: k units with 1 ≤ k ≤ L ≤ 8, L a power of two, all inside one band (R13). -/
def Grant.shaped (g : Grant) : Prop :=
  g.size ∈ [1, 2, 4, 8] ∧ 1 ≤ g.count ∧ g.count ≤ g.size ∧ g.units.Nodup ∧ g.units.length = g.count ∧
  ∀ u ∈ g.units, u < 48 ∧ bandOf u = g.band

/-- The slot has a data grant of the direction in the placement. -/
def Flight.grantedTo (f : Flight) (d : Direction) (i : Slot) : Prop := ∃ g ∈ f.grants, g.dir = d ∧ g.slot = i

/-- What holds at each stage: downlink before uplink (R116); nobody still to be served has a grant of the direction, and
nobody stands twice (R123); a ranked candidate is tried on bands offered to its reach, of an efficiency above 0 (R117). -/
def Flight.staged (f : Flight) : Prop :=
  match f.stage with
  | .rank d => ∀ g ∈ f.grants, g.dir = .dl ∧ d = .ul
  | .serve d left =>
    (d = .dl → ∀ g ∈ f.grants, g.dir = .dl) ∧ (left.map (·.cand.slot)).Nodup ∧
    (∀ r ∈ left, r.cand ∈ f.fresh d ∧ ¬ f.grantedTo d r.cand.slot ∧
      ∀ x ∈ r.bands, 0 < efficiency x.2 ∧ (f.bands[x.1]).offeredTo r.cand.reach = true) ∧
    ∀ c ∈ f.candidates.at d, c.stale = true → ¬ f.grantedTo d c.slot
  | .walk d left =>
    (d = .dl → ∀ g ∈ f.grants, g.dir = .dl) ∧ left.Nodup ∧
    ∀ c ∈ f.candidates.at d, c.stale = true → c.slot ∈ left → ¬ f.grantedTo d c.slot
  | .ended => True

/-- The laws of the placement in flight. Grids (R3, R13): grants are shaped, cover occupied units, no two of one direction
cover one unit, and the sounding units are reserved. Grant lists (R123): no slot has two grants of one direction. FAR
service (R132): a FAR grant lies on a band that was own HELD in the snapshot. What makes them hold: a candidate has
backlog, one slot is at most one candidate of a direction (R114), and the laws of the stages. -/
def GridLaw (s : State) : Prop :=
  ∀ f, s.flight = some f →
    (∀ g ∈ f.grants, g.shaped ∧ ∀ u ∈ g.units, (f.grids.at g.dir)[u]? = some .occupied) ∧
    f.grants.Pairwise (fun g h => g.dir = h.dir → ∀ u ∈ g.units, u ∉ h.units) ∧
    (∀ j : Subchannel, soundingUnit s.profile.soundingUnits j.val = true → f.grids.ul[j] = .reserved) ∧
    f.grants.Pairwise (fun g h => g.dir = h.dir → g.slot ≠ h.slot) ∧
    (∀ g ∈ f.grants, g.reach = .far → (f.bands[g.band]).own = .held) ∧
    (∀ d, (∀ c ∈ f.candidates.at d, 0 < c.backlog) ∧ (f.candidates.at d).Pairwise fun x y => x.slot < y.slot) ∧
    f.staged

/-! ### Conditions under which statements speak of a command -/

/-- The `k` bytes of a payload from byte `n` on, as one word (R162). -/
def wordAt (p : List Byte) (n k : Nat) : Nat := wordOf ((p.drop n).take k)

/-- Nothing that the latest event left is still to be done, but deadlines that wait for their placement (log entries 1
and 24). -/
def State.rested (s : State) : Prop :=
  s.agenda = [] ∧ s.closesDue = [] ∧ ∀ t ∈ s.deadlinesDue, s.awaited t = true

/-- The agenda's item that a threshold row does. -/
def itemOf : Instr → Option Due
  | .admissionHoldEnd i => some (.admissionHoldEnd i)
  | .silenceTimeout i => some (.silenceTimeout i)
  | .dormancy i => some (.dormancy i)
  | .quarantineEnd t => some (.quarantineEnd t)
  | .soundPendingExpiry i => some (.soundPendingExpiry i)
  | .bandHeld b => some (.bandHeld b)
  | .refreshClaim b => some (.refreshClaim b)
  | .settleEnd b => some (.settleEnd b)
  | .claimTransmitLimit b => some (.claimTransmitLimit b)
  | .lastAssertExpiry b => some (.lastAssertExpiry b)
  | .neighbourEntryExpiry b => some (.neighbourEntryExpiry b)
  | .listeningEnd => some .listeningEnd
  | .resetSequenceTimeout => some .resetSequenceTimeout
  | .idleRelease b => some (.idleRelease b)
  | .hardwareReset | .loading _ | .profileLoad _ | .spulseEdge _ | .pulseLoss | .placementBegin | .dataGrant
  | .fallbackGrant | .placementCompletion | .grantListDeadline _ | .closeByTimeout _ _ | .frameReceived _ | .attach
  | .detach | .quality | .range | .buffer | .usage | .claim | .bandRelease | .peerAdmit | .queryByTag | .queryOfStation
  | .release | .retrain | .clear | .reset | .frameTransmitStart _ | .frameSent | .transmitError => none

/-- The kind of telegram a row takes from the receive buffer. -/
def kindOf : Instr → Option Kind
  | .attach => some .attach
  | .detach => some .detach
  | .quality => some .quality
  | .range => some .range
  | .buffer => some .buffer
  | .usage => some .usage
  | .claim => some .claim
  | .bandRelease => some .bandRelease
  | .peerAdmit => some .admission
  | .queryByTag => some .query
  | .queryOfStation => some .query
  | .release => some .release
  | .retrain => some .retrain
  | .clear => some .clear
  | .reset => some .reset
  | .hardwareReset | .loading _ | .profileLoad _ | .spulseEdge _ | .pulseLoss | .admissionHoldEnd _
  | .silenceTimeout _ | .dormancy _ | .quarantineEnd _ | .soundPendingExpiry _ | .bandHeld _ | .refreshClaim _
  | .settleEnd _ | .claimTransmitLimit _ | .lastAssertExpiry _ | .neighbourEntryExpiry _ | .listeningEnd
  | .resetSequenceTimeout | .placementBegin | .dataGrant | .fallbackGrant | .placementCompletion | .idleRelease _
  | .grantListDeadline _ | .closeByTimeout _ _ | .frameReceived _ | .frameTransmitStart _ | .frameSent
  | .transmitError => none

/-- The payload has the layout of its kind (R162); a QUERY one of the two selectors besides (R163). -/
def layoutHolds (k : Kind) (p : List Byte) : Bool :=
  match k with
  | .attach => p.length == 6
  | .detach | .release | .retrain | .bandRelease => p.length == 1
  | .quality | .buffer | .admission => p.length == 5
  | .range => p.length == 3
  | .claim | .clear => p.length == 2
  | .reset => p.length == 0
  | .query => p.length == 2 && decide (p[0]? = some 0#8 ∨ p[0]? = some 1#8)
  | .usage =>
    match p[2]? with
    | some n => decide (n.toNat % 32 ≤ 20) && p.length == 3 + 3 * (n.toNat % 32)
    | none => false
  | .grantList | .tagAssign | .attachRefuse | .releaseNotice | .status | .alert => false

/-- The agenda holds the item `d` and no claim decision that waits for idle releases. -/
def State.dueNow (s : State) (d : Due) : Prop := d ∈ s.agenda ∧ Due.newClaim ∉ s.agenda

/-- The state with one item taken from the agenda. -/
def State.taking (s : State) (d : Due) : State := s.setAgenda (s.agenda.erase d)

/-- The part acts, nothing of the latest event is left, and the head of the receive buffer is this telegram. -/
def State.hasHead (s : State) (k : Kind) (source : Station) (p : List Byte) (rest : List RxTelegram) : Prop :=
  s.acting = true ∧ s.agenda = [] ∧ s.rxBuffer = { kind := k, source := source, payload := p } :: rest

/-- Every block at its reset values (R38, R71, R95, R112, R134, R149, R161, R171, R175, R177, R178); what the two resets
do to the station state, the own station number and the profile differs. -/
def State.blocksReset (t : State) : Prop :=
  t.resume = none ∧ t.listening = 0 ∧ t.resetSeq = none ∧ t.interval = 0 ∧ t.synced = false ∧
  (∀ i, t.ctx i = Context.free) ∧ (∀ g, t.tagEntry g = ⟨none, 0⟩) ∧ t.tagPtr = 0 ∧ t.refreshPtr = 0 ∧
  (∀ b, t.own b = OwnClaim.reset) ∧ t.farDemand = 0 ∧ t.spacing = 0 ∧ (∀ b, t.neighbour b = none) ∧
  t.cause = 0 ∧ t.inFlight = 0 ∧ t.flight = none ∧ t.placementsDue = [] ∧ t.fallbackPtr = ⟨0, 0⟩ ∧
  t.records = [] ∧ t.openIntervals = [] ∧ t.register = [] ∧ t.deadlinesDue = [] ∧ t.closesDue = [] ∧
  t.txQueue = [] ∧ t.rxBuffer = [] ∧ t.flags = 0 ∧ t.agenda = []

/-- The station reset of R177 taken at `s`. -/
def StationReset (s t : State) : Prop :=
  t.blocksReset ∧ t.station = .syncing ∧ t.resetN = s.resetN ∧ t.ownStation = s.ownStation ∧ t.profile = s.profile ∧
    t.pending = s.pending

/-- What a pulse event finds to have reached its limit at the new number `n` (R18, R22, R25, R27, R61, R77, R79, R81, R82,
R85, R91, R175, R177), seen in the state before it. -/
def State.reachesLimit (s : State) (n : Interval) : Due → Prop
  | .admissionHoldEnd i => (s.ctx i).life = .admitting ∧ (s.ctx i).hold ≤ 1
  | .silenceTimeout i => ((s.ctx i).life = .active ∨ (s.ctx i).life = .dormant ∨ (s.ctx i).life = .recovery) ∧
      s.profile.timeout (s.ctx i).kind ≤ (s.ctx i).silence + 1
  | .dormancy i => (s.ctx i).life = .active ∧ (s.ctx i).silence + 1 < s.profile.timeout (s.ctx i).kind ∧
      (s.ctx i).backlog = ⟨0, 0⟩ ∧ s.profile.dormancyTime ≤ (s.ctx i).dormancy + 1
  | .quarantineEnd t => (s.tagEntry t).quarantine = 1
  | .soundPendingExpiry i => ∃ k, (s.ctx i).sound = some k ∧ 7 ≤ k
  | .bandHeld b => (s.own b).state = .announced ∧ ∃ k, (s.own b).phase = some k ∧ k ≤ 1
  | .refreshClaim b => (s.own b).state = .held ∧ ∃ k, (s.own b).phase = some k ∧ k ≤ 1
  | .settleEnd b => (s.own b).state = .releasing ∧ ∃ k, (s.own b).phase = some k ∧ k ≤ 1
  | .claimTransmitLimit b => ∃ a, (s.own b).outstanding = some a ∧ 2 ≤ age n a
  | .lastAssertExpiry b => ∃ a, (s.own b).lastAssert = some a ∧ 8 ≤ age n a
  | .neighbourEntryExpiry b => ∃ e, s.neighbour b = some e ∧ 191 ≤ e.age
  | .listeningEnd => s.station = .listening ∧ s.listening ≤ 1
  | .resetSequenceTimeout => ∃ k, s.resetSeq = some k ∧ 1 ≤ k
  | .idleRelease _ => False
  | .newClaim => False

/-- What a pulse event does to a context in use, apart from the counts of its lifecycle state (R59, R61, R62, R69): the
last count of sound pending is left to its expiry. -/
def Context.aged (c : Context) : Context :=
  { c with age := min 4095 (c.age + 1), sound := c.sound.map fun n => if 7 ≤ n then n else n + 1
           rangeRepeat := c.rangeRepeat - 1 }

/-- The counts of the pulse event of number `n` taken at `s` (R18, R22, R23, R27, R59, R61, R62, R69, R77, R81, R82, R85,
R91, R175, R177): what does not reach its limit has counted; what does is left to its own row and is on the agenda, which
holds nothing else (log entry 1). -/
def PulseCounted (s t : State) (n : Interval) : Prop :=
  (∀ i, let c := s.ctx i
    (c.life = .free → t.ctx i = c) ∧
    (c.life = .admitting → 1 < c.hold → t.ctx i = { c.aged with hold := c.hold - 1 }) ∧
    (c.life = .admitting → c.hold ≤ 1 → t.ctx i = c.aged) ∧
    (c.life = .active → c.silence + 1 < s.profile.timeout c.kind → c.backlog ≠ ⟨0, 0⟩ →
      t.ctx i = { c.aged with silence := c.silence + 1, dormancy := 0 }) ∧
    (c.life = .active → c.silence + 1 < s.profile.timeout c.kind → c.backlog = ⟨0, 0⟩ →
      c.dormancy + 1 < s.profile.dormancyTime →
      t.ctx i = { c.aged with silence := c.silence + 1, dormancy := c.dormancy + 1 }) ∧
    (c.life = .active → c.silence + 1 < s.profile.timeout c.kind → c.backlog = ⟨0, 0⟩ →
      s.profile.dormancyTime ≤ c.dormancy + 1 → t.ctx i = c.aged) ∧
    (c.life = .dormant ∨ c.life = .recovery → c.silence + 1 < s.profile.timeout c.kind →
      t.ctx i = { c.aged with silence := c.silence + 1 }) ∧
    (c.life = .active ∨ c.life = .dormant ∨ c.life = .recovery → s.profile.timeout c.kind ≤ c.silence + 1 →
      t.ctx i = c.aged)) ∧
  (∀ g, t.tagEntry g = { s.tagEntry g with
    quarantine := if 1 < (s.tagEntry g).quarantine then (s.tagEntry g).quarantine - 1
      else (s.tagEntry g).quarantine }) ∧
  (∀ b, t.own b = { s.own b with
    backoff := (s.own b).backoff - 1, phase := (s.own b).phase.map fun n => if n ≤ 1 then n else n - 1 }) ∧
  (∀ b, t.neighbour b = (s.neighbour b).map fun e => { e with age := if 191 ≤ e.age then e.age else e.age + 1 }) ∧
  t.spacing = s.spacing - 1 ∧
  t.listening = (if s.station = .listening ∧ 1 < s.listening then s.listening - 1 else s.listening) ∧
  t.resetSeq = s.resetSeq.map (fun n => if n = 0 then 1 else n) ∧
  ∀ d, d ∈ t.agenda ↔ s.reachesLimit n d

/-- The telegram is a GRANT LIST that the register has as QUEUED (R148). -/
def State.ofQueuedList (s : State) (x : TxTelegram) : Bool :=
  match x.owner with
  | .grantList n k => decide (s.listState n k = some .queued)
  | .claim _ | .bandRelease _ _ | .unreported | .disowned => false

/-- What a timing fault discards and restores, and that it leaves the rest of contexts, claims, flags and transmit queue:
TIMING_FAULT is raised, no other condition is, and of the queue the QUEUED GRANT LISTs alone leave; one on the wire is
marked, its owner having dropped it (R86, R106, R133, R148; log entry 14). -/
def Discards (s t : State) : Prop :=
  t.records = [] ∧ t.openIntervals = [] ∧ t.register = [] ∧ t.closesDue = [] ∧ t.flight = none ∧ t.inFlight = 0 ∧
  (∀ i d, (s.ctx i).inUse = true → (t.ctx i).pending.at d = 0) ∧
  (∀ i d, (t.ctx i).backlog.at d = min backlogMax ((s.ctx i).backlog.at d + s.outstanding i d)) ∧
  (∀ i, t.ctx i = { s.ctx i with backlog := (t.ctx i).backlog, pending := (t.ctx i).pending }) ∧
  (∀ b, t.own b = if (s.own b).state = .held then { s.own b with phase := some 1 } else s.own b) ∧
  (∀ x ∈ t.txQueue, ∀ n k, x.owner = .grantList n k → s.listState n k ≠ some .queued) ∧
  t.txQueue = (((raise .timingFault s).txQueue.filter fun x => !(s.ofQueuedList x && !x.onWire)).map fun x =>
    if s.ofQueuedList x then { x with removal := true, owner := .disowned } else x) ∧
  t.raised .timingFault = true ∧ t.flags = (raise .timingFault s).flags ∧
  (∀ c : Condition, c ≠ .timingFault → c ≠ .txFail → t.raised c = s.raised c) ∧ t.cause = s.cause

/-- `u` is `s` with direction `d` ranked: the candidates in order are to be served, and the conditions their metrics give are
raised and put into the in-flight set (R101 to R105, R117, R118). -/
def RankedAs (s : State) (f : Flight) (d : Direction) (u : State) : Prop :=
  u.flight = some { f with stage := .serve d (f.ranked s.profile d) } ∧
  (∀ c, c ≠ .txFail → (u.raised c = true ↔ s.raised c = true ∨ c ∈ f.metricConditions s.profile d)) ∧
  (∀ c : Condition, c.num < 4 → (u.inFlight.getLsbD c.num = true ↔
    s.inFlight.getLsbD c.num = true ∨ c ∈ f.metricConditions s.profile d)) ∧
  Keeps [.flight, .flags, .txQueue, .inFlight] s u

/-- No stale candidate of the direction in these slots finds a free unit (R124). -/
def Flight.noFallback (f : Flight) (d : Direction) (slots : List Slot) : Prop :=
  ∀ j ∈ slots, ∀ c, (f.candidates.at d).find? (fun c => decide (c.slot = j) && c.stale) = some c →
    layFallback (f.grids.at d) f.bands c = none

/-- The command does at `s` what it does at `v`; where it has no effect at `v`, it has none at `s`. -/
def PassesTo (c : Instr) (s v : State) : Prop :=
  (exec c v = .next v → exec c s = .next s) ∧ (exec c v ≠ .next v → exec c s = exec c v)

/-- How a grant command looks for its grant past stages that place nobody (R116 to R118, R123, R124): ranking leads to
serving, serving that finds no block to the walk from the fallback pointer, a DL walk that finds no unit to the ranking of
UL; past the UL walk, and with placing ended or no placement in flight, it has no effect (log entry 2). -/
def StagesPass (c : Instr) : Prop :=
  (∀ s : State, s.agenda = [] → s.flight = none → exec c s = .next s) ∧
  ∀ (s : State) (f : Flight), s.agenda = [] → s.flight = some f → GridLaw s →
    (∀ d, f.stage = .rank d → ∃ u, RankedAs s f d u ∧ PassesTo c s u) ∧
    (∀ d left, f.stage = .serve d left → (∀ x ∈ left, layRanked (f.grids.at d) d x = none) →
      PassesTo c s (s.setFlight (some { f with stage := .walk d (slotsFrom (s.fallbackPtr.at d)) }))) ∧
    (∀ left, f.stage = .walk .dl left → f.noFallback .dl left →
      PassesTo c s (s.setFlight (some { f with stage := .rank .ul }))) ∧
    (∀ left, f.stage = .walk .ul left → f.noFallback .ul left → exec c s = .next s) ∧
    (f.stage = .ended → exec c s = .next s)

end Sys2Proof.Machine
end

