-- ==== Sys2Proof/Certificates/Slice0/Obligations.lean ====
section
/-! DEFINITION. The statements about the ZG16. A statement's title and wording stand in OBLIGATIONS.json; witnesses that the
hypotheses can be met stand in Tests/Slice0.lean. `log entry n` is notes/assumptions/n.md. -/

open Sys2Proof Sys2Proof.Machine

/-! ### Steps, and what holds of every command -/

/-- A step runs the command at the front of the queue on the state with the queue's rest; an empty queue idles (log
entry 7). -/
def Obligations.StepRunsFront : Prop :=
  (∀ (c : Instr) (rest : List Instr) (s : State), s.pending = c :: rest → step s = exec c (s.setPending rest)) ∧
  ∀ s : State, s.pending = [] → step s = .next s

/-- Every command answers a next state and leaves the queue of commands alone. The profile is written by HARDWARE_RESET and
PROFILE_LOAD only (R173, R177, R178), the own station number and RESET_N by HARDWARE_RESET and LOADING only (R172). -/
def Obligations.EveryCommandCompletes : Prop :=
  ∀ (c : Instr) (s : State), ∃ t, exec c s = .next t ∧ t.pending = s.pending ∧
    (c ≠ .hardwareReset → (∀ image, c ≠ .profileLoad image) → t.profile = s.profile) ∧
    (c ≠ .hardwareReset → (∀ n, c ≠ .loading n) → t.ownStation = s.ownStation ∧ t.resetN = s.resetN)

/-- How the threshold rows share an event's work (the model's choice, log entries 1 and 2): every other command first does
what the agenda holds; a threshold row whose item the agenda does not hold has no effect. A pulse or a loss first does all
that is left, the timeouts and deadlines due among it (log entry 24), which leaves the state at rest, and a state at rest
as it is. -/
def Obligations.AgendaBeforeOtherCommands : Prop :=
  (∀ (c : Instr) (s : State), itemOf c = none → exec c s = exec c (settle s)) ∧
  (∀ (c : Instr) (d : Due) (s : State), itemOf c = some d → d ∉ s.agenda → exec c s = .next s) ∧
  (∀ (mark : Bool) (s : State), exec (.spulseEdge mark) s = exec (.spulseEdge mark) (settleAll s)) ∧
  (∀ s : State, exec .pulseLoss s = exec .pulseLoss (settleAll s)) ∧
  ∀ s : State, (settleAll s).rested ∧ (s.rested → settleAll s = s)

/-- In LOADING and HALTED no command but HARDWARE_RESET, LOADING and PROFILE_LOAD changes anything (R4, R8, R39, R87, R113,
R161, R163). -/
def Obligations.LoadingAndHaltedIgnoreEvents : Prop :=
  ∀ (c : Instr) (s : State), StationLaw s → s.station = .loading ∨ s.station = .halted → c ≠ .hardwareReset →
    (∀ n, c ≠ .loading n) → (∀ image, c ≠ .profileLoad image) → exec c s = .next s

/-! ### Resets and start-up -/

/-- HARDWARE_RESET, whatever the state (R178). -/
def Obligations.HardwareResetTaken : Prop :=
  ∀ s : State, ∃ t, exec .hardwareReset s = .next t ∧ t.blocksReset ∧ t.resetN = false ∧ t.station = .loading ∧
    t.profile = Profile.default ∧ t.alertLow = false

/-- LOADING reads the straps (R172) and PROFILE_LOAD halts or starts the station (R173). Throughout HALTED, which either can
leave, ALERT_N is low (R169, R174). A LOADING without a rise, and a PROFILE_LOAD outside LOADING, have no effect (log entry
17). -/
def Obligations.StartUp : Prop :=
  ∀ s : State, s.agenda = [] →
    (∀ n, s.resetN = false → exec (.loading n) s =
      .next (((s.setResetN true).setOwnStation n).setStation (if n = 15 then .halted else .loading))) ∧
    (∀ n, s.resetN = true → exec (.loading n) s = .next s) ∧
    (∀ image, s.resetN = true → s.station = .loading → imageByte image 0 ≠ 0x6C →
      exec (.profileLoad image) s = .next (s.setStation .halted)) ∧
    (∀ image, s.resetN = true → s.station = .loading → imageByte image 0 = 0x6C →
      exec (.profileLoad image) s = .next ((s.setProfile (profileOf image)).setStation .syncing)) ∧
    (∀ image, s.resetN = false ∨ s.station ≠ .loading → exec (.profileLoad image) s = .next s) ∧
    (((s.setResetN true).setOwnStation 15).setStation .halted).alertLow = true ∧ (s.setStation .halted).alertLow = true

/-- The fields a good image gives the profile record, each clamped to its range (R162, R173). -/
def Obligations.ProfileFieldsClamped : Prop :=
  ∀ image : List Byte,
    let at1 := imageByte image
    let at2 := fun n => at1 n * 256 + at1 (n + 1)
    let p := profileOf image
    p.partner.val = min 14 (at1 1 / 16) ∧ p.management.val = min 14 (at1 1 % 16) ∧
    p.neighbourMask.toNat = at2 2 ∧ p.quota = min 6 (at1 4 / 32) ∧ p.soundingUnits = min 4 (at1 4 / 4 % 8) ∧
    p.rounding = [Rounding.nearest, .towardZero, .up, .down].getD (at1 4 % 4) .down ∧
    p.smoothing = max 3 (min 10 (at1 5 / 16)) ∧ p.derate = at1 5 / 2 % 8 ∧
    p.orders.dl = (if 128 ≤ at1 6 then .interleaved else .sequential) ∧
    p.orders.ul = (if 64 ≤ at1 6 % 128 then .interleaved else .sequential) ∧
    p.silenceFixed = [SilenceCode.a, .b, .c, .d].getD (at1 6 / 16 % 4) .d ∧
    p.silenceNomadic = [SilenceCode.a, .b, .c, .d].getD (at1 6 / 4 % 4) .d ∧
    p.horizon = max 50 (min 1000 (at2 7 % 1024)) ∧ p.farTa = at2 9 % 1024 ∧ p.farQ = at1 11 / 16 ∧
    p.taLimit = at2 12 % 1024 ∧ p.drift = max 1 (at1 14 % 64) ∧
    p.dormancyTime = max 100 (min 4000 (at2 15 % 4096)) ∧ p.initialAverage = at1 17 * 65536 + at2 18 ∧
    p.alertMask.toNat = at2 20

/-- LISTENING_END enters RUNNING (R175); RESET_SEQUENCE_TIMEOUT makes the station reset take effect (R177). -/
def Obligations.StationCountsEnd : Prop :=
  (∀ s : State, s.dueNow .listeningEnd → s.station = .listening →
    exec .listeningEnd s = .next (((s.taking .listeningEnd).setListening 0).setStation .running)) ∧
  ∀ s : State, Due.resetSequenceTimeout ∈ s.agenda →
    ∃ t, exec .resetSequenceTimeout s = .next t ∧ StationReset s t

/-- A RESET telegram (R93, R177): ignored while a sequence is under way; with no band ANNOUNCED or HELD the reset takes
effect at once; else the sequence begins, each such band goes to RELEASING with its waiting CLAIM removed, and one BAND
RELEASE for each is offered. The order, band by band, ascending, each CLAIM removed just before its BAND RELEASE is offered,
is the model's choice (log entry 8), and so is that a CLAIM on the wire loses its owner (log entry 14). With room for six the
queue is stated in full; where a BAND RELEASE finds none, what offering it does follows, and with none of them left in the
queue the reset takes effect. -/
def Obligations.ResetCommand : Prop :=
  ∀ (s : State) (source : Station) (rest : List RxTelegram), s.hasHead .reset source [] rest →
    (s.resetSeq ≠ none → exec .reset s = .next (s.setRxBuffer rest)) ∧
    (s.resetSeq = none → (∀ b, (s.own b).claimed = false) → (∀ x ∈ s.txQueue, x.ofSequence = false) →
      ∃ t, exec .reset s = .next t ∧ StationReset s t) ∧
    (s.resetSeq = none → (∃ b, (s.own b).claimed = true) → s.txQueue.length ≤ 18 →
      ∃ t, exec .reset s = .next t ∧ t.resetSeq = some 0 ∧ t.rxBuffer = rest ∧
        (∀ b, t.own b = if (s.own b).claimed then
          { s.own b with state := .releasing, announced := none, phase := some 4, outstanding := none } else s.own b) ∧
        t.txQueue = removeTelegrams (fun x => allBands.any fun b => (s.own b).claimed && x.owner.isClaimOf b)
            TxTelegram.markedDisowned s.txQueue ++
          (allBands.filter fun b => (s.own b).claimed).map
            (fun b => telegram .bandRelease 15 (bandReleasePayload b) (.bandRelease b true)) ∧
        Keeps [.resetSeq, .rxBuffer, .claims, .txQueue] s t) ∧
    (s.resetSeq = none →
      let released := fun (v : State) (b : Band) =>
        if (v.own b).claimed then
          offer (telegram .bandRelease 15 (bandReleasePayload b) (.bandRelease b true))
            ((v.putOwn b { v.own b with state := .releasing, announced := none, phase := some 4, outstanding := none }
              ).setTxQueue (removeTelegrams (fun x => x.owner.isClaimOf b) TxTelegram.markedDisowned v.txQueue))
        else v
      let w := allBands.foldl released ((s.setRxBuffer rest).setResetSeq (some 0))
      ((∃ y ∈ w.txQueue, y.ofSequence = true) → exec .reset s = .next w) ∧
      ((∀ y ∈ w.txQueue, y.ofSequence = false) → ∃ t, exec .reset s = .next t ∧ StationReset s t))

/-! ### The interval timer -/

/-- A pulse while not synchronised (R7, R175): without the mark it is ignored; with it the number becomes 0, the flag is
set, and station control takes the mark event; nothing else changes, so no counter advances. That the pulse loss
measurement runs exactly while the flag is set is the model's form of it (DEDUCED, log entry 5). -/
def Obligations.UnsynchronisedPulse : Prop :=
  ∀ s : State, s.rested → s.acting = true → s.synced = false →
    exec (.spulseEdge false) s = .next s ∧
    ∃ t, exec (.spulseEdge true) s = .next t ∧ t.interval = 0 ∧ t.synced = true ∧
      (s.station = .syncing → s.resume = none → t.station = .listening ∧ t.listening = 128 ∧ t.resume = none) ∧
      (s.station = .suspended → s.resume = some .running →
        t.station = .running ∧ t.listening = s.listening ∧ t.resume = none) ∧
      (s.station = .suspended → s.resume = some .listening →
        t.station = .listening ∧ t.listening = s.listening ∧ t.resume = none) ∧
      Keeps [.interval, .synced, .station, .resume, .listening] s t

/-- A pulse that the count agrees with (R5, R6, R113, R141, R144): the number counts on, wrapping; the deadline of the
next interval, the close timeouts of age 4 (log entry 13: 4 to 4093) and, in LISTENING and RUNNING, the placement two
intervals ahead become due. Only the counters advance besides. -/
def Obligations.OrdinaryPulse : Prop :=
  ∀ (s : State) (mark : Bool), s.rested → s.acting = true → s.synced = true → (mark = true → s.interval = 4095) →
    ∃ t, exec (.spulseEdge mark) s = .next t ∧ t.interval = s.interval + 1 ∧
      t.deadlinesDue = s.deadlinesDue ++ [s.interval + 1 + 1] ∧
      t.closesDue = (s.openIntervals.filter fun o => decide (4 ≤ age (s.interval + 1) o.interval ∧
        age (s.interval + 1) o.interval ≤ 4093)).map (fun o => (o.interval, o.dir)) ∧
      t.placementsDue = (if s.station = .listening ∨ s.station = .running
        then s.placementsDue ++ [s.interval + 1 + 2] else s.placementsDue) ∧
      Keeps [.interval, .deadlinesDue, .closesDue, .placementsDue, .agenda, .contexts, .tags, .claims, .neighbours,
        .spacing, .listening, .resetSeq] s t

/-- What every counter does at such a pulse, where it does not reach its limit (R18, R22, R23, R27, R59, R61, R62, R69, R77,
R81, R82, R85, R91, R175, R177); an item that does is left to its own row (log entry 1), and the agenda holds exactly
those items. -/
def Obligations.PulseCounts : Prop :=
  ∀ (s : State) (mark : Bool), s.rested → s.acting = true → s.synced = true → (mark = true → s.interval = 4095) →
    ∃ t, exec (.spulseEdge mark) s = .next t ∧ PulseCounted s t (s.interval + 1)

/-- A mark that disagrees with the count (R6, R86, R106, R133, R148, R176): the timing fault discards, which gives `v`; then
interval 0 has its pulse event, whose counts, agenda and due work start from `v`; the station stays synchronised and in its
state. -/
def Obligations.MarkMismatch : Prop :=
  ∀ s : State, s.rested → s.acting = true → s.synced = true → s.interval ≠ 4095 → BacklogLaw s →
    ∃ t v, exec (.spulseEdge true) s = .next t ∧ Discards s v ∧ v.deadlinesDue = [] ∧ v.placementsDue = [] ∧
      Keeps [.flags, .txQueue, .contexts, .claims, .records, .openIntervals, .register, .deadlinesDue, .closesDue,
        .placementsDue, .flight, .inFlight] s v ∧
      PulseCounted v t 0 ∧ t.interval = 0 ∧ t.deadlinesDue = [1] ∧ t.closesDue = [] ∧
      t.placementsDue = (if s.station = .listening ∨ s.station = .running then [2] else []) ∧
      Keeps [.interval, .deadlinesDue, .closesDue, .placementsDue, .agenda, .contexts, .tags, .claims, .neighbours,
        .spacing, .listening, .resetSeq] v t

/-- PULSE_LOSS (R8, R86, R106, R133, R148, R176, R177): no effect while not synchronised; in a reset sequence the reset takes
effect; else the timing fault discards and the station is SUSPENDED, its number and counters as they stand. -/
def Obligations.PulseLossSuspends : Prop :=
  ∀ s : State, s.rested → s.acting = true →
    (s.synced = false → exec .pulseLoss s = .next s) ∧
    (s.synced = true → s.resetSeq ≠ none → ∃ t, exec .pulseLoss s = .next t ∧ StationReset s t) ∧
    (s.synced = true → s.resetSeq = none → BacklogLaw s →
      ∃ t, exec .pulseLoss s = .next t ∧ t.synced = false ∧ Discards s t ∧ t.deadlinesDue = [] ∧ t.placementsDue = [] ∧
        (s.station = .listening → t.station = .suspended ∧ t.resume = some .listening) ∧
        (s.station = .running → t.station = .suspended ∧ t.resume = some .running) ∧
        Keeps [.synced, .station, .resume, .deadlinesDue, .closesDue, .placementsDue, .contexts, .claims, .flags, .txQueue,
          .records, .openIntervals, .register, .flight, .inFlight] s t)

/-! ### Contexts and tags -/

/-- ADMISSION_HOLD_END, DORMANCY, SILENCE_TIMEOUT, QUARANTINE_END and SOUND_PENDING_EXPIRY (R18, R22, R24, R25, R27, R61):
each does its item's whole share of the pulse. ACTIVE and DORMANT enter RECOVERY at a silence timeout; RECOVERY is
released with reason LOST. The silence timeout is that of the code the profile holds for the kind (R23). -/
def Obligations.ContextTimersEnd : Prop :=
  (∀ (i : Slot) (s : State), s.dueNow (.admissionHoldEnd i) → (s.ctx i).life = .admitting → (s.ctx i).hold ≤ 1 →
    exec (.admissionHoldEnd i) s = .next ((s.taking (.admissionHoldEnd i)).putCtx i
      { s.ctx i with life := .active, hold := 0, silence := 0, dormancy := 0 })) ∧
  (∀ (i : Slot) (s : State), s.dueNow (.dormancy i) → (s.ctx i).life = .active →
    (s.ctx i).silence + 1 < s.profile.timeout (s.ctx i).kind → (s.ctx i).backlog = ⟨0, 0⟩ →
    s.profile.dormancyTime ≤ (s.ctx i).dormancy + 1 →
    exec (.dormancy i) s = .next ((s.taking (.dormancy i)).putCtx i
      { s.ctx i with life := .dormant, dormancy := 0, silence := (s.ctx i).silence + 1 })) ∧
  (∀ (i : Slot) (s : State), s.dueNow (.silenceTimeout i) →
    s.profile.timeout (s.ctx i).kind ≤ (s.ctx i).silence + 1 →
    ((s.ctx i).life = .active ∨ (s.ctx i).life = .dormant →
      exec (.silenceTimeout i) s = .next ((s.taking (.silenceTimeout i)).putCtx i
        { s.ctx i with life := .recovery, retrain := true, silence := 0, dormancy := 0, rangeRepeat := 0 })) ∧
    ((s.ctx i).life = .recovery →
      exec (.silenceTimeout i) s = .next (releaseContext i .lost (s.taking (.silenceTimeout i))))) ∧
  (∀ (g : Tag) (s : State), s.dueNow (.quarantineEnd g) →
    exec (.quarantineEnd g) s = .next ((s.taking (.quarantineEnd g)).putTag g { s.tagEntry g with quarantine := 0 })) ∧
  (∀ (i : Slot) (s : State), s.dueNow (.soundPendingExpiry i) →
    exec (.soundPendingExpiry i) s = .next ((s.taking (.soundPendingExpiry i)).putCtx i { s.ctx i with sound := none })) ∧
  ∀ p : Profile, p.timeout .fixed = p.silenceFixed.timeout ∧ p.timeout .nomadic = p.silenceNomadic.timeout ∧
    SilenceCode.a.timeout = 25 ∧ SilenceCode.b.timeout = 250 ∧ SilenceCode.c.timeout = 2500 ∧ SilenceCode.d.timeout = 4000

/-- What a release does (R30, R31, R147): the notice is offered, the tag is quarantined, the records become orphans, the slot
is FREE, and the reason's condition is raised; with room in the queue the notice stands last in it and nothing else
changes. DETACH and RELEASE take it, with reasons DETACHED and FORCED, for a tag that is valid (R33, R40, R48). -/
def Obligations.ReleaseFreesContext : Prop :=
  (∀ (i : Slot) (reason : ReleaseReason) (g : Tag) (s : State), s.acting = true → (s.ctx i).tag = some g →
    let notice := telegram .releaseNotice s.profile.partner
      [BitVec.ofNat 8 g.val, match reason with
        | .detached => 1#8 | .lost => 2#8 | .handedOver => 3#8 | .forced => 4#8 | .outOfRange => 5#8] .unreported
    let noticed := offer notice s
    let freed := ((noticed.setTags (s.tags.set g ⟨none, 64⟩)).setRecords (noticed.records.map fun r =>
      if r.slot = i ∧ r.tag = g then { r with orphan := true } else r)).putCtx i Context.free
    (s.txQueue.length < 24 → noticed = s.setTxQueue (s.txQueue ++ [notice])) ∧
    (reason = .lost → (s.ctx i).kind = .fixed → releaseContext i reason s = raise .lostFixed freed) ∧
    (reason = .outOfRange → releaseContext i reason s = raise .rangeOut freed) ∧
    (reason ≠ .outOfRange → ¬(reason = .lost ∧ (s.ctx i).kind = .fixed) → releaseContext i reason s = freed)) ∧
  ∀ (s : State) (source : Station) (g : Tag) (rest : List RxTelegram),
    (s.hasHead .detach source (bytesOf 1 g.val) rest →
      (∀ i, s.slotOf g = some i → exec .detach s = .next (releaseContext i .detached (s.setRxBuffer rest))) ∧
      (s.slotOf g = none → 0 < (s.tagEntry g).quarantine → exec .detach s = .next (s.setRxBuffer rest)) ∧
      (s.slotOf g = none → (s.tagEntry g).quarantine = 0 →
        exec .detach s = .next (raise .tagUnknown (s.setRxBuffer rest)))) ∧
    (s.hasHead .release source (bytesOf 1 g.val) rest →
      (∀ i, s.slotOf g = some i → exec .release s = .next (releaseContext i .forced (s.setRxBuffer rest))) ∧
      (s.slotOf g = none → exec .release s = .next (s.setRxBuffer rest)))

/-! ### Telegrams of the partner modem -/

/-- A telegram row leaves the buffer alone when the head is of another kind; a telegram without its layout is discarded
(R39, R87, R142, R163). A QUALITY, RANGE or BUFFER whose tag is not valid writes nothing: silently while the tag is
quarantined, with TAG_UNKNOWN else (R40). -/
def Obligations.TelegramsNotActedOn : Prop :=
  (∀ (c : Instr) (k : Kind) (s : State), kindOf c = some k → s.agenda = [] →
    (s.rxBuffer = [] → exec c s = .next s) ∧
    (∀ t rest, s.rxBuffer = t :: rest → t.kind ≠ k → exec c s = .next s) ∧
    ∀ source p rest, s.hasHead k source p rest → layoutHolds k p = false → exec c s = .next (s.setRxBuffer rest)) ∧
  ∀ (c : Instr) (k : Kind) (s : State) (source : Station) (b : Byte) (p : List Byte) (rest : List RxTelegram) (g : Tag),
    (c = .quality ∧ k = .quality ∨ c = .range ∧ k = .range ∨ c = .buffer ∧ k = .buffer) →
    s.hasHead k source (b :: p) rest → layoutHolds k (b :: p) = true → b.toNat = g.val → s.slotOf g = none →
    (0 < (s.tagEntry g).quarantine → exec c s = .next (s.setRxBuffer rest)) ∧
    ((s.tagEntry g).quarantine = 0 → exec c s = .next (raise .tagUnknown (s.setRxBuffer rest)))

/-- ATTACH (R20, R21, R43 to R47): refused beyond the TA limit; a re-attach of a held identity updates its context; a new
identity takes the lowest free slot and the first unassigned tag from the pointer; refused when there is none. -/
def Obligations.AttachTaken : Prop :=
  ∀ (s : State) (source : Station) (p : List Byte) (a : AttachReport) (rest : List RxTelegram),
    s.hasHead .attach source p rest → readAttach p = some a →
    let u := s.setRxBuffer rest
    (s.profile.taLimit < a.delay → exec .attach s = .next (raise .rangeOut (offer
      (telegram .attachRefuse s.profile.partner (attachRefusePayload a.identity .rangeOut) .unreported) u))) ∧
    (a.delay ≤ s.profile.taLimit → (∀ i, (s.ctx i).inUse = true → (s.ctx i).identity ≠ some a.identity) →
      (192 ≤ s.tagsTaken ∨ (∀ i, (s.ctx i).inUse = true) → exec .attach s = .next (raise .tableFull (offer
        (telegram .attachRefuse s.profile.partner (attachRefusePayload a.identity .tableFull) .unreported) u))) ∧
      ∀ (i : Slot) (g : Tag), s.tagsTaken < 192 → (s.ctx i).inUse = false → (∀ j < i, (s.ctx j).inUse = true) →
        (s.tagEntry g).unassigned = true →
        (∀ h : Tag, (h - s.tagPtr).val < (g - s.tagPtr).val → (s.tagEntry h).unassigned = false) →
        exec .attach s = .next
          (offer (telegram .admission 15 (admitPayload a.identity a.quality s.interval) .unreported)
            (offer (telegram .tagAssign s.profile.partner (tagAssignPayload g a.identity) .unreported)
              (((u.putTag g ⟨some i, 0⟩).setTagPtr (g + 1)).putCtx i
                { Context.free with
                  life := .admitting, identity := some a.identity, tag := some g, kind := a.kind, cls := a.cls
                  reach := if s.profile.farTa ≤ a.delay ∨ a.quality.val ≤ s.profile.farQ then .far else .near
                  ta := a.delay, attachQuality := a.quality, admitted := s.interval, qWide := a.quality
                  average := ⟨s.profile.initialAverage, s.profile.initialAverage⟩, hold := 4 })))) ∧
    ∀ (i : Slot) (g : Tag), a.delay ≤ s.profile.taLimit → (s.ctx i).inUse = true →
      (s.ctx i).identity = some a.identity → (∀ j < i, (s.ctx j).inUse = true → (s.ctx j).identity ≠ some a.identity) →
      (s.ctx i).tag = some g →
      let c := { s.ctx i with
        ta := a.delay, attachQuality := a.quality, kind := a.kind, cls := a.cls, silence := 0
        qWide := if (s.ctx i).q = none then a.quality else (s.ctx i).qWide }
      exec .attach s = .next
        (offer (telegram .tagAssign s.profile.partner (tagAssignPayload g a.identity) .unreported)
          (writeAndClassify i
            (if c.life = .recovery then { c with life := .active, retrain := false, dormancy := 0 } else c) u))

/-- Reach after a report, with hysteresis of 16 in TA and 1 in q_wide; a change raises REACH_CHANGE (R56, R57). -/
def Obligations.ReachHysteresis : Prop :=
  ∀ (i : Slot) (c : Context) (s : State),
    (c.reach = .near → (s.profile.farTa ≤ c.ta ∨ c.qWide.val ≤ s.profile.farQ) →
      writeAndClassify i c s = raise .reachChange (s.putCtx i { c with reach := .far })) ∧
    (c.reach = .near → c.ta < s.profile.farTa → s.profile.farQ < c.qWide.val → writeAndClassify i c s = s.putCtx i c) ∧
    (c.reach = .far → c.ta + 16 < s.profile.farTa → s.profile.farQ + 1 < c.qWide.val →
      writeAndClassify i c s = raise .reachChange (s.putCtx i { c with reach := .near })) ∧
    (c.reach = .far → (s.profile.farTa ≤ c.ta + 16 ∨ c.qWide.val ≤ s.profile.farQ + 1) →
      writeAndClassify i c s = s.putCtx i c)

/-- QUALITY applied to a context (R23, R49 to R51): the channel fields; then the timing error is a correction of TA, which
releases beyond the limit, or at the drift threshold a move of ACTIVE and DORMANT to RECOVERY. -/
def Obligations.QualityApplied : Prop :=
  ∀ (s : State) (source : Station) (p : List Byte) (r : QualityReport) (rest : List RxTelegram) (i : Slot),
    s.hasHead .quality source p rest → readQuality p = some r → s.slotOf r.tag = some i →
    let u := s.setRxBuffer rest
    let c := { s.ctx i with
      q := some r.q, qWide := wideband r.q, age := 0, sound := none
      silence := if (s.ctx i).life = .recovery then (s.ctx i).silence else 0 }
    let ta := min 2047 (((s.ctx i).ta : Int) + r.error).toNat
    (wideband r.q).val =
      (r.q[0].val + r.q[1].val + r.q[2].val + r.q[3].val + r.q[4].val + r.q[5].val) / 6 ∧
    (r.error.natAbs < s.profile.drift → ta ≤ s.profile.taLimit →
      exec .quality s = .next (writeAndClassify i { c with ta := ta } u)) ∧
    (r.error.natAbs < s.profile.drift → s.profile.taLimit < ta →
      exec .quality s = .next (releaseContext i .outOfRange (u.putCtx i c))) ∧
    (s.profile.drift ≤ r.error.natAbs → ((s.ctx i).life = .active ∨ (s.ctx i).life = .dormant) →
      exec .quality s = .next (writeAndClassify i
        { c with life := .recovery, retrain := true, silence := 0, dormancy := 0, rangeRepeat := 0 } u)) ∧
    (s.profile.drift ≤ r.error.natAbs → (s.ctx i).life ≠ .active → (s.ctx i).life ≠ .dormant →
      exec .quality s = .next (writeAndClassify i c u))

/-- RANGE and BUFFER applied to a context (R26, R28, R52 to R55). -/
def Obligations.RangeAndBufferApplied : Prop :=
  (∀ (s : State) (source : Station) (p : List Byte) (r : RangeReport) (rest : List RxTelegram) (i : Slot),
    s.hasHead .range source p rest → readRange p = some r → s.slotOf r.tag = some i →
    let u := s.setRxBuffer rest
    let c := { s.ctx i with silence := 0 }
    (s.profile.taLimit < r.delay → exec .range s = .next (releaseContext i .outOfRange (u.putCtx i c))) ∧
    (r.delay ≤ s.profile.taLimit → c.life ≠ .recovery →
      exec .range s = .next (writeAndClassify i { c with ta := r.delay } u)) ∧
    (r.delay ≤ s.profile.taLimit → c.life = .recovery → exec .range s = .next
      (writeAndClassify i { c with ta := r.delay, life := .active, retrain := false, dormancy := 0 } u))) ∧
  ∀ (s : State) (source : Station) (p : List Byte) (r : BufferReport) (rest : List RxTelegram) (i : Slot),
    s.hasHead .buffer source p rest → readBuffer p = some r → s.slotOf r.tag = some i →
    let left := 8 * r.bytes - (s.ctx i).pending.at r.dir
    let c := { s.ctx i with
      backlog := (s.ctx i).backlog.put r.dir left
      silence := if (s.ctx i).life = .recovery then (s.ctx i).silence else 0 }
    exec .buffer s = .next ((s.setRxBuffer rest).putCtx i
      (if c.life = .dormant ∧ 0 < left then { c with life := .active, dormancy := 0, silence := 0, age := 4095 } else c))

/-- USAGE (R142, R143): ignored whole when the interval and direction are not open; else each unorphaned record whose tag an
entry names takes the figure of the last such entry, held to its granted bits, and a last flag then closes. -/
def Obligations.UsageApplied : Prop :=
  ∀ (s : State) (source : Station) (p : List Byte) (u : UsageReport) (rest : List RxTelegram),
    s.hasHead .usage source p rest → readUsage p = some u →
    let v := s.setRxBuffer rest
    let reported := v.setRecords (s.records.map fun r =>
      match u.entries.reverse.find? fun e => decide (e.1 = r.tag) with
      | some e => if r.interval = u.interval ∧ r.dir = u.dir ∧ r.orphan = false
          then { r with delivered := some (min e.2 r.granted) } else r
      | none => r)
    (s.isOpen u.interval u.dir = false → exec .usage s = .next v) ∧
    (s.isOpen u.interval u.dir = true → u.last = false → exec .usage s = .next reported) ∧
    (s.isOpen u.interval u.dir = true → u.last = true →
      exec .usage s = .next (closeInterval u.interval u.dir .last reported))

/-! ### Band claims -/

/-- BAND_HELD, SETTLE_END, LAST_ASSERT_EXPIRY and NEIGHBOUR_ENTRY_EXPIRY (R77, R81, R85, R91). -/
def Obligations.BandTimersEnd : Prop :=
  ∀ (b : Band) (s : State),
    (s.dueNow (.bandHeld b) → (s.own b).state = .announced → exec (.bandHeld b) s = .next
      ((s.taking (.bandHeld b)).putOwn b { s.own b with state := .held, phase := some 64, idle := 0, lastAssert := none })) ∧
    (s.dueNow (.settleEnd b) → (s.own b).state = .releasing → exec (.settleEnd b) s = .next
      ((s.taking (.settleEnd b)).putOwn b { s.own b with state := .free, phase := none })) ∧
    (s.dueNow (.lastAssertExpiry b) → exec (.lastAssertExpiry b) s = .next
      ((s.taking (.lastAssertExpiry b)).putOwn b { s.own b with lastAssert := none })) ∧
    (s.dueNow (.neighbourEntryExpiry b) → exec (.neighbourEntryExpiry b) s = .next
      ((s.taking (.neighbourEntryExpiry b)).putNeighbour b none))

/-- REFRESH_CLAIM (R82): with a CLAIM outstanding the count restarts; else a CLAIM is queued with the stored interval, held
to an age of 1024: no CLAIM of a HELD band carries an older one. -/
def Obligations.RefreshClaimQueued : Prop :=
  (∀ (b : Band) (a : Interval) (s : State), s.dueNow (.refreshClaim b) → (s.own b).state = .held →
    (s.own b).announced = some a →
    let u := s.taking (.refreshClaim b)
    let carried := if (s.interval - a).val ≤ 1024 then a else s.interval - 1024
    ((s.own b).outstanding ≠ none →
      exec (.refreshClaim b) s = .next (u.putOwn b { s.own b with phase := some 64 })) ∧
    ((s.own b).outstanding = none →
      exec (.refreshClaim b) s = .next (offer (telegram .claim 15 (claimPayload b carried) (.claim b))
        (u.putOwn b { s.own b with announced := some carried, outstanding := some s.interval, phase := some 64 })))) ∧
  ∀ now a : Interval, age now (cappedAnnouncement now a) = min 1024 (age now a) ∧
    (age now a ≤ 1024 → cappedAnnouncement now a = a)

/-- CLAIM_TRANSMIT_LIMIT (R79, R83, R159): the CLAIM is asked to be removed; one still in the queue leaves it, and the band
whose first CLAIM it was returns to FREE; one on the wire is marked and stays outstanding until it is reported. -/
def Obligations.ClaimTransmitLimitTaken : Prop :=
  ∀ (b : Band) (a : Interval) (s : State), s.dueNow (.claimTransmitLimit b) → (s.own b).outstanding = some a →
    2 ≤ age s.interval a →
    let u := (s.taking (.claimTransmitLimit b)).setTxQueue
      (removeTelegrams (fun x => x.owner.isClaimOf b) TxTelegram.marked s.txQueue)
    ((∃ x ∈ s.txQueue, x.owner = .claim b ∧ x.onWire = false) → (s.own b).state = .announced → (s.own b).phase = none →
      exec (.claimTransmitLimit b) s =
        .next (u.putOwn b { s.own b with state := .free, announced := none, phase := none, outstanding := none })) ∧
    ((∃ x ∈ s.txQueue, x.owner = .claim b ∧ x.onWire = false) →
      ((s.own b).state ≠ .announced ∨ (s.own b).phase ≠ none) →
      exec (.claimTransmitLimit b) s = .next (u.putOwn b { s.own b with outstanding := none })) ∧
    ((∀ x ∈ s.txQueue, x.owner = .claim b → x.onWire = true) → exec (.claimTransmitLimit b) s = .next u)

/-- IDLE_RELEASE (R84, R85): the band goes to RELEASING with a BAND RELEASE, its waiting CLAIM removed, and one on the wire
disowned (the model's choice, log entry 14); the claim decision of the completion follows the last idle release (log entry
1). -/
def Obligations.IdleReleaseTaken : Prop :=
  ∀ (b : Band) (s : State), Due.idleRelease b ∈ s.agenda → (s.own b).state = .held →
    let u := (s.taking (.idleRelease b)).putOwn b { s.own b with
      state := .releasing, announced := none, phase := some 4, outstanding := none, idle := 128 }
    let released := offer (telegram .bandRelease 15 (bandReleasePayload b) (.bandRelease b false))
      (u.setTxQueue (removeTelegrams (fun x => x.owner.isClaimOf b) TxTelegram.markedDisowned s.txQueue))
    ((s.taking (.idleRelease b)).agenda ≠ [.newClaim] → exec (.idleRelease b) s = .next released) ∧
    ((s.taking (.idleRelease b)).agenda = [.newClaim] →
      exec (.idleRelease b) s = .next (decideClaim (released.setAgenda [])))

/-- The claim decision of a completion (R78): the lowest claimable band is announced when demand, spacing, quota and station
allow it. -/
def Obligations.ClaimDecision : Prop :=
  ∀ s : State,
    (s.farDemand ≠ 8 ∨ s.spacing ≠ 0 ∨ s.profile.quota ≤ s.claimedBands ∨ s.station ≠ .running ∨ s.resetSeq ≠ none ∨
      (∀ b, s.claimable b = false) → decideClaim s = s) ∧
    ∀ b : Band, s.farDemand = 8 → s.spacing = 0 → s.claimedBands < s.profile.quota → s.station = .running →
      s.resetSeq = none → s.claimable b = true → (∀ b' < b, s.claimable b' = false) →
      decideClaim s = offer (telegram .claim 15 (claimPayload b s.interval) (.claim b))
        (((s.putOwn b { s.own b with state := .announced, announced := some s.interval, phase := none,
                                      outstanding := some s.interval, idle := 0, lastAssert := none }).setSpacing
          16).setFarDemand 0)

/-- A heard CLAIM on a band the station claims (R75, R88, R89): kept, with an assert for a HELD band at most once while the
last-assert interval stands; or lost, with CLAIM_LOST, the peer's entry, backoff 64, and a waiting CLAIM removed. That a CLAIM
on the wire at a loss loses its owner, which the queue after a loss shows, is the model's choice (log entry 14). -/
def Obligations.HeardClaimOnOwnBand : Prop :=
  ∀ (s : State) (source : Station) (b : Band) (a own : Interval) (rest : List RxTelegram),
    s.hasHead .claim source (claimPayload b a) rest → source ≠ s.ownStation → (s.own b).announced = some own →
    let u := s.setRxBuffer rest
    let c := s.own b
    let lost := (raise .claimLost u).putNeighbour b (some { station := source, interval := a, age := 0 })
    let dropped := removeTelegrams (fun x => x.owner.isClaimOf b) TxTelegram.markedDisowned lost.txQueue
    (c.state = .announced → winsClaim own a s.ownStation source = true → exec .claim s = .next u) ∧
    (c.state = .held → winsClaim own a s.ownStation source = true → c.lastAssert ≠ none → exec .claim s = .next u) ∧
    (c.state = .held → winsClaim own a s.ownStation source = true → c.lastAssert = none → c.outstanding ≠ none →
      exec .claim s = .next (u.putOwn b { c with lastAssert := some s.interval })) ∧
    (c.state = .held → winsClaim own a s.ownStation source = true → c.lastAssert = none → c.outstanding = none →
      let carried := if (s.interval - own).val ≤ 1024 then own else s.interval - 1024
      exec .claim s = .next (offer (telegram .claim 15 (claimPayload b carried) (.claim b))
        (u.putOwn b { c with announced := some carried, outstanding := some s.interval, phase := some 64
                             lastAssert := some s.interval }))) ∧
    (c.state = .announced → winsClaim own a s.ownStation source = false → exec .claim s = .next
      ((lost.putOwn b { c with state := .free, announced := none, phase := none, outstanding := none
                               backoff := 64 }).setTxQueue dropped)) ∧
    (c.state = .held → winsClaim own a s.ownStation source = false → exec .claim s = .next
      (offer (telegram .bandRelease 15 (bandReleasePayload b) (.bandRelease b false))
        ((lost.putOwn b { c with state := .releasing, announced := none, phase := some 4, outstanding := none
                                 backoff := 64 }).setTxQueue dropped)))

/-- A heard CLAIM on a band the station does not claim is weighed against the entry (R75, R90); a heard BAND RELEASE clears
the entry of its sender (R91); both are discarded from the station's own number and for bands 6 and 7 (R87). -/
def Obligations.HeardClaimsAndReleases : Prop :=
  ∀ (s : State) (source : Station) (b : Band) (a : Interval) (rest : List RxTelegram),
    let u := s.setRxBuffer rest
    let peer : PeerEntry := { station := source, interval := a, age := 0 }
    (s.hasHead .claim source (claimPayload b a) rest → source ≠ s.ownStation → (s.own b).claimed = false →
      (s.neighbour b = none → exec .claim s = .next (u.putNeighbour b (some peer))) ∧
      (∀ e, s.neighbour b = some e → e.station = source → exec .claim s = .next (u.putNeighbour b (some peer))) ∧
      (∀ e, s.neighbour b = some e → e.station ≠ source → winsClaim a e.interval source e.station = true →
        exec .claim s = .next (u.putNeighbour b (some peer))) ∧
      (∀ e, s.neighbour b = some e → e.station ≠ source → winsClaim a e.interval source e.station = false →
        exec .claim s = .next u)) ∧
    (s.hasHead .bandRelease source (bandReleasePayload b) rest → source ≠ s.ownStation →
      (∀ e, s.neighbour b = some e → e.station = source → (s.own b).claimed = false →
        exec .bandRelease s = .next (u.putNeighbour b none)) ∧
      ((∀ e, s.neighbour b = some e → e.station ≠ source) → exec .bandRelease s = .next u)) ∧
    (s.hasHead .claim s.ownStation (claimPayload b a) rest → exec .claim s = .next u) ∧
    (s.hasHead .bandRelease s.ownStation (bandReleasePayload b) rest → exec .bandRelease s = .next u) ∧
    ∀ n : Nat, 6 ≤ n → n ≤ 7 →
      (s.hasHead .claim source (bytesOf 2 (n * 8192 + a.val)) rest → exec .claim s = .next u) ∧
      (s.hasHead .bandRelease source (bytesOf 1 (n * 32)) rest → exec .bandRelease s = .next u)

/-- ADMIT (R35, R37): ignored for an identity not held here and from the station's own number; a win re-broadcasts the own
ADMIT; a loss releases the context HANDED_OVER. -/
def Obligations.HeardAdmit : Prop :=
  ∀ (s : State) (source : Station) (id : Identity) (q : Quality) (a : Interval) (rest : List RxTelegram),
    s.hasHead .admission source (admitPayload id q a) rest →
    let u := s.setRxBuffer rest
    (source = s.ownStation → exec .peerAdmit s = .next u) ∧
    ((∀ i, (s.ctx i).inUse = true → (s.ctx i).identity ≠ some id) → exec .peerAdmit s = .next u) ∧
    ∀ i, source ≠ s.ownStation → (s.ctx i).inUse = true → (s.ctx i).identity = some id →
      (∀ j < i, (s.ctx j).inUse = true → (s.ctx j).identity ≠ some id) →
      let c := s.ctx i
      (winsHandover c.attachQuality q c.admitted a s.ownStation source = true → exec .peerAdmit s = .next
        (offer (telegram .admission 15 (admitPayload id c.attachQuality c.admitted) .unreported) u)) ∧
      (winsHandover c.attachQuality q c.admitted a s.ownStation source = false →
        exec .peerAdmit s = .next (releaseContext i .handedOver u))

/-- The two contests as R9, R36 and R75 state them, and their verdicts at the two stations: opposite. -/
def Obligations.ContestVerdicts : Prop :=
  (∀ a1 a2 : Interval, earlier a1 a2 = true ↔ 1 ≤ (a2.val + 4096 - a1.val) % 4096 ∧ (a2.val + 4096 - a1.val) % 4096 ≤ 2047) ∧
  (∀ a1 a2 : Interval, a1 ≠ a2 → (a2.val + 4096 - a1.val) % 4096 ≠ 2048 → earlier a1 a2 = !earlier a2 a1) ∧
  (∀ (a1 a2 : Interval) (n1 n2 : Station), n1 ≠ n2 → winsClaim a1 a2 n1 n2 = !winsClaim a2 a1 n2 n1) ∧
  (∀ (q1 q2 : Quality) (a1 a2 : Interval) (n1 n2 : Station), n1 ≠ n2 →
    winsHandover q1 q2 a1 a2 n1 n2 = !winsHandover q2 q1 a2 a1 n2 n1) ∧
  (∀ (q1 q2 : Quality) (a1 a2 : Interval) (n1 n2 : Station),
    (q2 < q1 → winsHandover q1 q2 a1 a2 n1 n2 = true) ∧
    (q1 = q2 → winsHandover q1 q2 a1 a2 n1 n2 = winsClaim a1 a2 n1 n2)) ∧
  ∀ (a1 a2 : Interval) (n1 n2 : Station),
    (earlier a1 a2 = true → winsClaim a1 a2 n1 n2 = true) ∧ (earlier a2 a1 = true → winsClaim a1 a2 n1 n2 = false) ∧
    (earlier a1 a2 = false → earlier a2 a1 = false → (winsClaim a1 a2 n1 n2 = true ↔ n1 < n2))

/-! ### Management -/

/-- QUERY_BY_TAG and QUERY_OF_STATION (R162 to R165): the timeouts and deadlines of the latest pulse are taken first (log entry
24), then one STATUS goes to the management station, with the values of that moment; what it holds of something absent is a
free value (log entry 10). The row of the other selector leaves the telegram alone (log entry 3). -/
def Obligations.QueriesAnswered : Prop :=
  (∀ (s : State) (source : Station) (g : Tag) (x : Byte) (rest : List RxTelegram),
    let u := settleDeadlines (settleCloses (s.setRxBuffer rest))
    (s.rested → u = s.setRxBuffer rest) ∧
    (s.hasHead .query source [0#8, BitVec.ofNat 8 g.val] rest →
      (∀ i, u.slotOf g = some i → exec .queryByTag s = .next (offer
        (telegram .status s.profile.management (statusContextPayload g i (u.ctx i)) .unreported) u)) ∧
      (u.slotOf g = none → exec .queryByTag s = .next (offer
        (telegram .status s.profile.management [0#8, BitVec.ofNat 8 g.val, 0#8] .unreported) u)) ∧
      exec .queryOfStation s = .next s) ∧
    (s.hasHead .query source [1#8, x] rest →
      exec .queryOfStation s = .next ((offer
        (telegram .status s.profile.management (statusStationPayload u) .unreported) u).setFreeCount (s.freeCount + 1)) ∧
      exec .queryByTag s = .next s)) ∧
  (∀ (p : Profile) (c : Context) (g : Tag) (i : Slot), p.inRange → c.inRange p → (∀ d, c.pending.at d < 2 ^ 24) →
    let status := statusContextPayload g i c
    let bit := fun v : Bool => if v then 1 else 0
    status.length = 42 ∧ wordAt status 0 1 = 0 ∧ wordAt status 1 1 = g.val ∧ wordAt status 2 1 = 1 ∧
    wordAt status 3 1 = i.val ∧
    wordAt status 4 1 = c.life.code * 32 + bit (c.kind == .nomadic) * 16 + bit (c.reach == .far) * 8 + c.cls.val * 2 +
      bit c.retrain ∧
    (∀ id, c.identity = some id → wordAt status 5 3 = id.toNat) ∧
    wordAt status 8 2 = bit c.q.isSome * 2 ^ 14 + c.hold * 2 ^ 11 + c.ta ∧
    (∀ q, c.q = some q → wordAt status 10 3 = q[0].val * 16 ^ 5 + q[1].val * 16 ^ 4 + q[2].val * 16 ^ 3 + q[3].val * 16 ^ 2 +
      q[4].val * 16 + q[5].val) ∧
    (c.q = none → wordAt status 10 3 = 0) ∧ wordAt status 13 1 = c.qWide.val * 16 + c.attachQuality.val ∧
    wordAt status 14 2 = c.admitted.val * 16 + c.rangeRepeat ∧ wordAt status 16 2 = c.age * 16 + c.sound.getD 15 ∧
    wordAt status 18 2 = c.silence * 16 ∧ wordAt status 20 2 = c.dormancy * 16 ∧
    wordAt status 22 4 = c.backlog.dl ∧ wordAt status 26 4 = c.backlog.ul ∧ wordAt status 30 3 = c.pending.dl ∧
    wordAt status 33 3 = c.pending.ul ∧ wordAt status 36 3 = c.average.dl ∧ wordAt status 39 3 = c.average.ul) ∧
  ∀ s : State, RangeLaw s →
    let status := statusStationPayload s
    status.length = 46 ∧ status.take 5 = [1#8, BitVec.ofNat 8 (s.station.code + if s.resetSeq.isSome then 128 else 0),
      (s.flags >>> 8).setWidth 8, s.flags.setWidth 8, s.cause.setWidth 8] ∧
    wordAt status 5 1 = s.contextsInUse ∧ wordAt status 6 2 = (if s.synced then 2 ^ 15 else 0) + s.interval.val ∧
    wordAt status 8 1 = s.farDemand ∧ wordAt status 9 1 = s.spacing ∧
    ∀ b : Band,
      wordAt status (10 + 6 * b.val) 2 / 2 ^ 13 = (s.own b).state.code * 2 + (if (s.own b).announced.isSome then 1 else 0) ∧
      (∀ a, (s.own b).announced = some a → wordAt status (10 + 6 * b.val) 2 % 2 ^ 13 = a.val) ∧
      (s.neighbour b = none → wordAt status (12 + 6 * b.val) 1 < 128) ∧
      ∀ e, s.neighbour b = some e → wordAt status (12 + 6 * b.val) 1 = 128 + e.station.val ∧
        wordAt status (13 + 6 * b.val) 2 = e.interval.val ∧ wordAt status (15 + 6 * b.val) 1 = e.age

/-- RETRAIN (R24, R33); CLEAR (R170), after which ALERT_N is low exactly while an enabled flag is still set (R169). -/
def Obligations.RetrainAndClear : Prop :=
  ∀ (s : State) (source : Station) (rest : List RxTelegram),
    let u := s.setRxBuffer rest
    (∀ g : Tag, s.hasHead .retrain source (bytesOf 1 g.val) rest →
      (∀ i, s.slotOf g = some i → ((s.ctx i).life = .active ∨ (s.ctx i).life = .dormant) →
        exec .retrain s = .next (u.putCtx i
          { s.ctx i with life := .recovery, retrain := true, silence := 0, dormancy := 0, rangeRepeat := 0 })) ∧
      (∀ i, s.slotOf g = some i → (s.ctx i).life ≠ .active → (s.ctx i).life ≠ .dormant →
        exec .retrain s = .next u) ∧
      (s.slotOf g = none → exec .retrain s = .next u)) ∧
    ∀ mask : BitVec 16, s.hasHead .clear source (bytesOf 2 mask.toNat) rest →
      ∃ t, exec .clear s = .next t ∧ Keeps [.rxBuffer, .flags] s t ∧ t.rxBuffer = rest ∧
        (∀ n, t.flags.getLsbD n = (s.flags.getLsbD n && !mask.getLsbD n)) ∧
        (t.alertLow = true ↔ ∃ n : Nat, t.flags.getLsbD n = true ∧ t.profile.alertMask.getLsbD n = true)

/-- Raising a condition (R167, R168): a set flag stays as it is; a clear one becomes set, and if the mask enables it one ALERT
with all flags and the cause is queued; in a full queue the ALERT is refused, which sets TX_FAIL (R158). No other field
changes. -/
def Obligations.RaiseSetsFlagAndAlerts : Prop :=
  ∀ (c : Condition) (s : State), s.acting = true →
    let flags := s.flags ||| (1#16 <<< c.num)
    (s.flags.getLsbD c.num = true → raise c s = s) ∧
    (s.flags.getLsbD c.num = false → s.profile.alertMask.getLsbD c.num = false → raise c s = s.setFlags flags) ∧
    (s.flags.getLsbD c.num = false → s.profile.alertMask.getLsbD c.num = true → s.txQueue.length < 24 →
      raise c s = (s.setFlags flags).setTxQueue (s.txQueue ++ [telegram .alert s.profile.management
        [(flags >>> 8).setWidth 8, flags.setWidth 8, s.cause.setWidth 8] .unreported])) ∧
    (s.flags.getLsbD c.num = false → s.profile.alertMask.getLsbD c.num = true → 24 ≤ s.txQueue.length →
      raise c s = s.setFlags (flags ||| (1#16 <<< 12)))

/-! ### The placement -/

/-- PLACEMENT_BEGIN (R3, R63, R68, R104, R113 to R116): the oldest placement due begins when none is in flight. -/
def Obligations.PlacementBegins : Prop :=
  ∀ (s : State) (n : Interval) (later : List Interval), s.agenda = [] →
    (s.flight ≠ none ∨ s.placementsDue = [] → exec .placementBegin s = .next s) ∧
    (s.flight = none → s.placementsDue = n :: later →
      ∃ t f, exec .placementBegin s = .next t ∧ t.flight = some f ∧ t.placementsDue = later ∧ f.target = n ∧
        (∀ d i, (∃ c ∈ f.candidates.at d, c.slot = i) ↔
          (s.ctx i).life = .active ∧ 0 < (s.ctx i).backlog.at d ∧ (s.ctx i).tag ≠ none) ∧
        (∀ d, ∀ c ∈ f.candidates.at d, (s.ctx c.slot).tag = some c.tag ∧ c.reach = (s.ctx c.slot).reach ∧
          c.cls = (s.ctx c.slot).cls ∧ c.average = (s.ctx c.slot).average.at d ∧
          c.backlog = (s.ctx c.slot).backlog.at d ∧ (∀ b : Band, c.q[b] = (s.ctx c.slot).quality b) ∧
          (c.stale = true ↔ s.profile.horizon ≤ (s.ctx c.slot).age)) ∧
        (∀ d, (f.candidates.at d).Pairwise fun x y => x.slot < y.slot) ∧
        (∀ b : Band, f.bands[b] = { own := (s.own b).state, entry := (s.neighbour b).isSome }) ∧
        (∀ j : Subchannel, f.grids.dl[j] = .free) ∧
        (∀ j : Subchannel, f.grids.ul[j] = if 48 ≤ j.val + s.profile.soundingUnits then .reserved else .free) ∧
        f.stage = .rank .dl ∧ f.grants = [] ∧
        f.ranges = s.rangeChoice.filterMap (fun i => (s.ctx i).tag) ∧
        f.sounds = (s.soundChoice.chosen.zip [47, 46, 45, 44]).filterMap
          (fun x => (s.ctx x.1).tag.map fun g => (g, x.2)) ∧
        (∀ i, t.ctx i = { s.ctx i with
          rangeRepeat := if i ∈ s.rangeChoice then 8 else (s.ctx i).rangeRepeat
          sound := if i ∈ s.soundChoice.chosen then some 0 else (s.ctx i).sound }) ∧
        t.refreshPtr = refreshAfter s.soundChoice.third s.refreshPtr ∧
        ((∃ d, ∃ c ∈ f.candidates.at d, c.stale = true) → t.raised .stale = true ∧ t.inFlight = 8#4) ∧
        ((∀ d, ∀ c ∈ f.candidates.at d, c.stale = false) → t.flags = s.flags ∧ t.txQueue = s.txQueue ∧ t.inFlight = 0) ∧
        Keeps [.flight, .placementsDue, .contexts, .refreshPtr, .inFlight, .flags, .txQueue] s t)

/-- The choice of range and SOUND entries (R63 to R66, R68): at most four RECOVERY contexts with no repeat running, the lowest
slots; at most K contexts with no sound pending: of the first tier by slot, then of the second by age and slot, then of the
third by slot from the refresh pointer, which moves past the last of these. No lower tier is reached while a context of a
higher one is left. Of the first tier is an ACTIVE context of age 4095, of the second an ACTIVE or RECOVERY one of age H or
more, of the third an ACTIVE one of age H/2 or more or a DORMANT one of age 4H or more. -/
def Obligations.EntryChoice : Prop :=
  (∀ s : State,
    let k := s.profile.soundingUnits
    let h := s.profile.horizon
    let chosen := s.soundChoice.chosen
    let third := s.soundChoice.third
    s.rangeChoice = (allSlots.filter fun i =>
      decide ((s.ctx i).life = .recovery ∧ (s.ctx i).rangeRepeat = 0)).take 4 ∧
    chosen.length ≤ k ∧ chosen.Nodup ∧ (∀ i ∈ chosen, (s.ctx i).sound = none) ∧
    ∃ first second : List Slot, chosen = first ++ second ++ third ∧
      first <+: allSlots.filter (fun i => (s.ctx i).firstTier) ∧
      (∀ i ∈ second, (s.ctx i).secondTier h = true ∧ (s.ctx i).firstTier = false) ∧
      (∀ i ∈ third, (s.ctx i).thirdTier h = true ∧ (s.ctx i).firstTier = false ∧ (s.ctx i).secondTier h = false) ∧
      (second.Pairwise fun i j => (s.ctx j).age < (s.ctx i).age ∨ (s.ctx i).age = (s.ctx j).age ∧ i < j) ∧
      third <+: (slotsFrom s.refreshPtr).filter (fun i => (s.ctx i).thirdTier h && !(first ++ second).contains i) ∧
      (∀ j ∉ chosen, (s.ctx j).firstTier = true → second = [] ∧ third = []) ∧
      (∀ j ∉ chosen, (s.ctx j).secondTier h = true →
        third = [] ∧ ∀ i ∈ second, (s.ctx j).age < (s.ctx i).age ∨ (s.ctx i).age = (s.ctx j).age ∧ i < j) ∧
      (chosen.length < k → ∀ j ∉ chosen, (s.ctx j).firstTier = false ∧ (s.ctx j).secondTier h = false ∧
        (s.ctx j).thirdTier h = false)) ∧
  (∀ p, refreshAfter [] p = p) ∧ (∀ third i p, refreshAfter (third ++ [i]) p = i + 1) ∧
  ∀ (c : Context) (h : Nat),
    (c.firstTier = true ↔ c.life = .active ∧ c.age = 4095 ∧ c.sound = none) ∧
    (c.secondTier h = true ↔ (c.life = .active ∨ c.life = .recovery) ∧ h ≤ c.age ∧ c.sound = none) ∧
    (c.thirdTier h = true ↔ (c.life = .active ∧ h / 2 ≤ c.age ∨ c.life = .dormant ∧ 4 * h ≤ c.age) ∧ c.sound = none)

/-- DATA_GRANT (R13, R101 to R105, R116 to R122, R126, R136): the next ranked candidate for whom a block is found gets its
grant: a record, the bits moved from backlog to pending, the units occupied; a full record list stops placing instead. For a
candidate released in the meantime the grant is laid, but nothing is recorded or written (R147, log entry 9). From the stage
rank the direction is ranked first, which raises the conditions its metrics give, and puts them into the in-flight set;
from the downlink walk with nobody left to serve the uplink is ranked first. A stage that places nobody is passed over, up to
the end of placing, where the command has no effect (log entry 2). -/
def Obligations.DataGrantMade : Prop :=
  (∀ (s : State) (f : Flight) (d : Direction) (skipped left : List Ranked) (r : Ranked) (l : Lay), s.agenda = [] →
    s.flight = some f → f.stage = .serve d (skipped ++ r :: left) → skipped.length ≤ 96 →
    (∀ x ∈ skipped, layRanked (f.grids.at d) d x = none) → layRanked (f.grids.at d) d r = some l →
    let c := r.cand
    let bits := l.count * efficiency l.quality
    let first := (f.target.val + c.slot.val) % l.size
    let o := s.profile.orders.at d
    let grant : Grant := { dir := d, slot := c.slot, tag := c.tag, band := l.band, start := Fin.ofNat 48 (l.base + first)
                           size := l.size, count := l.count, order := o, reach := c.reach, quality := l.quality }
    let laid := s.setFlight (some { f with
      grids := f.grids.put d (occupy (f.grids.at d) (covered o l.base l.size first l.count))
      grants := f.grants ++ [grant], stage := .serve d left })
    (384 ≤ s.records.length →
      exec .dataGrant s = .next (raise .recordsFull (s.setFlight (some { f with stage := .ended })))) ∧
    (s.records.length < 384 → s.slotOf c.tag = some c.slot → exec .dataGrant s = .next
      ((laid.putCtx c.slot { s.ctx c.slot with
        backlog := (s.ctx c.slot).backlog.put d ((s.ctx c.slot).backlog.at d - bits)
        pending := (s.ctx c.slot).pending.put d ((s.ctx c.slot).pending.at d + bits) }).setRecords
        (s.records ++ [{ interval := f.target, dir := d, slot := c.slot, tag := c.tag, band := l.band
                         start := grant.start, size := l.size, count := l.count, order := o, reach := c.reach
                         quality := l.quality, granted := bits, carrier := none, delivered := none, orphan := false }]))) ∧
    (s.records.length < 384 → s.slotOf c.tag ≠ some c.slot → exec .dataGrant s = .next laid) ∧
    exec .fallbackGrant s = .next s) ∧
  (∀ (s : State) (f : Flight) (d : Direction) (skipped left : List Ranked) (r : Ranked) (l : Lay), s.agenda = [] →
    s.flight = some f → f.stage = .rank d → f.ranked s.profile d = skipped ++ r :: left → skipped.length ≤ 96 →
    (∀ x ∈ skipped, layRanked (f.grids.at d) d x = none) → layRanked (f.grids.at d) d r = some l →
    ∃ u, exec .dataGrant s = exec .dataGrant u ∧ RankedAs s f d u ∧
      u.flight = some { f with stage := .serve d (skipped ++ r :: left) }) ∧
  (∀ (s : State) (f : Flight) (walked : List Slot) (skipped left : List Ranked) (r : Ranked) (l : Lay), s.agenda = [] →
    s.flight = some f → f.stage = .walk .dl walked → walked.length ≤ 96 →
    (∀ j ∈ walked, ∀ x, f.candidates.dl.find? (fun c => decide (c.slot = j) && c.stale) = some x →
      layFallback f.grids.dl f.bands x = none) →
    f.ranked s.profile .ul = skipped ++ r :: left → skipped.length ≤ 96 →
    (∀ x ∈ skipped, layRanked f.grids.ul .ul x = none) → layRanked f.grids.ul .ul r = some l →
    exec .dataGrant s = exec .dataGrant (s.setFlight (some { f with stage := .rank .ul }))) ∧
  StagesPass .dataGrant

/-- FALLBACK_GRANT (R123 to R126): the next stale candidate of the walk for whom a unit is free gets one unit at q' 1, and the
fallback pointer moves past its slot; a full record list stops placing instead. For a candidate released in the meantime
nothing is recorded or written (R147, log entry 9). With no ranked candidate left that finds a block, the walk begins first,
at the pointer. A stage that places nobody is passed over, ranking and the downlink walk among them, up to the end of placing,
where the command has no effect (log entry 2). -/
def Obligations.FallbackGrantMade : Prop :=
  (∀ (s : State) (f : Flight) (d : Direction) (skipped left : List Slot) (i : Slot) (c : Candidate) (l : Lay),
    s.agenda = [] → s.flight = some f → f.stage = .walk d (skipped ++ i :: left) → skipped.length ≤ 96 →
    (∀ j ∈ skipped, ∀ x, (f.candidates.at d).find? (fun c => decide (c.slot = j) && c.stale) = some x →
      layFallback (f.grids.at d) f.bands x = none) →
    (f.candidates.at d).find? (fun c => decide (c.slot = i) && c.stale) = some c →
    layFallback (f.grids.at d) f.bands c = some l →
    let o := s.profile.orders.at d
    let grant : Grant := { dir := d, slot := c.slot, tag := c.tag, band := l.band, start := Fin.ofNat 48 l.base
                           size := 1, count := 1, order := o, reach := c.reach, quality := 1 }
    let laid := (s.setFlight (some { f with
      grids := f.grids.put d (occupy (f.grids.at d) [l.base])
      grants := f.grants ++ [grant], stage := .walk d left })).setFallbackPtr (s.fallbackPtr.put d (i + 1))
    (384 ≤ s.records.length →
      exec .fallbackGrant s = .next (raise .recordsFull (s.setFlight (some { f with stage := .ended })))) ∧
    (s.records.length < 384 → s.slotOf c.tag = some c.slot → exec .fallbackGrant s = .next
      ((laid.putCtx c.slot { s.ctx c.slot with
        backlog := (s.ctx c.slot).backlog.put d ((s.ctx c.slot).backlog.at d - 12)
        pending := (s.ctx c.slot).pending.put d ((s.ctx c.slot).pending.at d + 12) }).setRecords
        (s.records ++ [{ interval := f.target, dir := d, slot := c.slot, tag := c.tag, band := l.band
                         start := grant.start, size := 1, count := 1, order := o, reach := c.reach, quality := 1
                         granted := 12, carrier := none, delivered := none, orphan := false }]))) ∧
    (s.records.length < 384 → s.slotOf c.tag ≠ some c.slot → exec .fallbackGrant s = .next laid) ∧
    (l.base < 48 ∧ isFree (f.grids.at d) l.base = true ∧ l.band = bandOf l.base ∧
      (f.bands[l.band]).offeredTo c.reach = true ∧
      ∀ j < l.base, isFree (f.grids.at d) j = true → (f.bands[bandOf j]).offeredTo c.reach = false) ∧
    exec .dataGrant s = .next s) ∧
  (∀ (s : State) (f : Flight) (d : Direction) (unplaced : List Ranked) (skipped left : List Slot) (i : Slot) (c : Candidate)
    (l : Lay), s.agenda = [] → s.flight = some f → f.stage = .serve d unplaced → unplaced.length ≤ 96 →
    (∀ x ∈ unplaced, layRanked (f.grids.at d) d x = none) →
    slotsFrom (s.fallbackPtr.at d) = skipped ++ i :: left →
    (∀ j ∈ skipped, ∀ x, (f.candidates.at d).find? (fun c => decide (c.slot = j) && c.stale) = some x →
      layFallback (f.grids.at d) f.bands x = none) →
    (f.candidates.at d).find? (fun c => decide (c.slot = i) && c.stale) = some c →
    layFallback (f.grids.at d) f.bands c = some l →
    exec .fallbackGrant s =
      exec .fallbackGrant (s.setFlight (some { f with stage := .walk d (slotsFrom (s.fallbackPtr.at d)) }))) ∧
  StagesPass .fallbackGrant

/-- The ranked list of a direction (R94, R98, R117, R118): the fresh candidates with an allowed band, by best metric, the
largest of their bands' metrics, equal ones by slot; the bands of each by metric, equal ones by band number. Allowed is, for
NEAR, every band, for FAR, every band own HELD, whose q', derated for NEAR on a band FREE with an entry or RELEASING, has an
efficiency above 0. The conditions ranking raises are those of these metrics (R101 to R103). The efficiency of each quality
index is that of the table (R96); the quality of a band is the reported one, or the attach quality (R97). -/
def Obligations.RankingOrder : Prop :=
  (∀ (f : Flight) (p : Profile) (d : Direction), ((f.candidates.at d).Pairwise fun x y => x.slot < y.slot) →
    ((f.ranked p d).Pairwise fun x y => y.best < x.best ∨ x.best = y.best ∧ x.cand.slot < y.cand.slot) ∧
    (∀ c, (∃ r ∈ f.ranked p d, r.cand = c) ↔
      c ∈ f.candidates.at d ∧ c.stale = false ∧ allowedBands p f.bands c ≠ []) ∧
    (∀ r ∈ f.ranked p d, (∀ x, x ∈ r.bands ↔ x ∈ allowedBands p f.bands r.cand) ∧
      (r.bands.Pairwise fun x y => (candidateMetric p r.cand y.2).1 < (candidateMetric p r.cand x.2).1 ∨
        (candidateMetric p r.cand x.2).1 = (candidateMetric p r.cand y.2).1 ∧ x.1 < y.1) ∧
      (∀ x ∈ r.bands, (candidateMetric p r.cand x.2).1 ≤ r.best) ∧
      ∃ x ∈ r.bands, (candidateMetric p r.cand x.2).1 = r.best) ∧
    ∀ e, e ∈ f.metricConditions p d ↔ ∃ c ∈ f.candidates.at d, c.stale = false ∧
      ∃ x ∈ allowedBands p f.bands c, (candidateMetric p c x.2).2 = some e) ∧
  (∀ (p : Profile) (copies : Vector BandCopy 6) (c : Candidate) (b : Band) (q : Quality),
    candidateMetric p c q = metric p.rounding (efficiency q) c.cls c.average ∧
    ((b, q) ∈ allowedBands p copies c ↔ (c.reach = .near ∨ (copies[b]).own = .held) ∧ 0 < efficiency q ∧
      q.val = if c.reach = .near ∧ ((copies[b]).own = .free ∧ (copies[b]).entry = true ∨ (copies[b]).own = .releasing)
        then c.q[b].val - p.derate else c.q[b].val)) ∧
  (∀ copy : BandCopy, copy.offeredTo .near = true ∧ (copy.offeredTo .far = true ↔ copy.own = .held)) ∧
  (∀ q : Quality, [0, 12, 18, 28, 40, 56, 76, 96, 124, 156, 190, 228, 268, 310, 352, 396][q.val]? = some (efficiency q)) ∧
  ∀ (c : Context) (b : Band), (∀ q, c.q = some q → c.quality b = q[b]) ∧ (c.q = none → c.quality b = c.attachQuality)

/-- The search of one band (R10, R119, R120): aligned blocks, all free, in descending sizes, the lowest of a size; the
units of a grant (R10 to R13): k different units of one block, the first at the start offset, in the visiting order, and the
same units again from the four values that describe them; the units U a candidate needs on a band (R119): the least number
that carries its backlog, capped at 8, for FAR in UL at 4; and its lay (R118, R120): the first of its bands that yields a
block of some size L, with k the lesser of U and L. -/
def Obligations.BlockSearchAndGeometry : Prop :=
  (∀ (g : Grid) (b : Band) (u : Nat), 1 ≤ u → u ≤ 8 →
    (∀ size base, searchBlock g b u = some (size, base) →
      size ∈ sizesTried u ∧ base % size = 0 ∧ 8 * b.val ≤ base ∧ base + size ≤ 8 * b.val + 8 ∧
      (∀ j < size, isFree g (base + j) = true) ∧
      (∀ other, other % size = 0 → 8 * b.val ≤ other → other < base → ¬ ∀ j < size, isFree g (other + j) = true) ∧
      ∀ larger ∈ sizesTried u, size < larger → ∀ other, other % larger = 0 → 8 * b.val ≤ other →
        other + larger ≤ 8 * b.val + 8 → ¬ ∀ j < larger, isFree g (other + j) = true) ∧
    (searchBlock g b u = none → ∀ j : Nat, 8 * b.val ≤ j → j < 8 * b.val + 8 → isFree g j = false) ∧
    (∀ size ∈ sizesTried u, size ∈ [1, 2, 4, 8] ∧ size < 2 * u) ∧ u ≤ (sizesTried u).headD 0 ∧
    sizesTried u = [8, 4, 2, 1].filter fun size => decide (size < 2 * u)) ∧
  (∀ (o : VisitOrder) (b : Band) (size base first count : Nat), size ∈ [1, 2, 4, 8] → base % size = 0 → 8 * b.val ≤ base →
    base + size ≤ 8 * b.val + 8 → first < size → 1 ≤ count → count ≤ size →
    (covered o base size first count).Nodup ∧ (covered o base size first count).length = count ∧
    (covered o base size first count).head? = some (base + first) ∧
    (∀ i < count, (covered .sequential base size first count)[i]? = some (base + (first + i) % size) ∧
      (covered .interleaved base size first count)[i]? = some (base + (first ^^^ i))) ∧
    (∀ j ∈ covered o base size first count, base ≤ j ∧ j < base + size ∧ bandOf j = b) ∧
    coveredOf o (base + first) size count = covered o base size first count) ∧
  (∀ (d : Direction) (reach : Reach) (backlog e : Nat), 0 < e →
    let cap := if reach = .far ∧ d = .ul then 4 else 8
    let u := unitsNeeded d reach backlog e
    u ≤ cap ∧ (u < cap → backlog ≤ u * e) ∧ ∀ v < u, v * e < backlog) ∧
  ∀ (g : Grid) (d : Direction) (r : Ranked),
    let u := fun q : Quality => unitsNeeded d r.cand.reach r.cand.backlog (efficiency q)
    (layRanked g d r = none ↔ ∀ x ∈ r.bands, searchBlock g x.1 (u x.2) = none) ∧
    ∀ before b q after size base, r.bands = before ++ (b, q) :: after →
      (∀ y ∈ before, searchBlock g y.1 (u y.2) = none) → searchBlock g b (u q) = some (size, base) →
      layRanked g d r = some { band := b, quality := q, base := base, size := size, count := min (u q) size }

/-- Rounding, the metric and the average update (R99, R101 to R103, R107, R110): the quotient is rounded by the mode; both
results stay in 0 to 16,777,215, and with in-range inputs the average needs no clamp. -/
def Obligations.MetricAndAverage : Prop :=
  (∀ (n : Int) (d : Nat), 0 < d →
    (roundQuotient .down n d * d ≤ n ∧ n < (roundQuotient .down n d + 1) * d) ∧
    ((roundQuotient .up n d - 1) * d < n ∧ n ≤ roundQuotient .up n d * d) ∧
    (0 ≤ n → roundQuotient .towardZero n d = roundQuotient .down n d) ∧
    (n ≤ 0 → roundQuotient .towardZero n d = roundQuotient .up n d) ∧
    (2 * (n - roundQuotient .nearest n d * d)).natAbs ≤ d ∧
    ((2 * (n - roundQuotient .nearest n d * d)).natAbs = d → roundQuotient .nearest n d % 2 = 0)) ∧
  (∀ (m : Rounding) (q : Quality) (cls : ServiceClass) (a : Nat), 0 < efficiency q →
    (a = 0 → metric m (efficiency q) cls a = (16777215, some .divzero)) ∧
    (0 < a → let v := (roundQuotient m (efficiency q * 2 ^ (20 + cls.val)) a).toNat
      metric m (efficiency q) cls a = if 16777215 < v then (16777215, some .overflow)
        else (v, if v = 0 then some .underflow else none)) ∧
    (metric m (efficiency q) cls a).1 ≤ 16777215) ∧
  ∀ (m : Rounding) (w a delivered : Nat), averageUpdate m w a delivered ≤ 16777215 ∧
    (averageUpdate m w a delivered : Int) =
      max 0 (min 16777215 (a + roundQuotient m (256 * (delivered : Int) - a) (2 ^ w))) ∧
    (3 ≤ w → w ≤ 10 → a ≤ 16777215 → delivered ≤ 4095 →
      (averageUpdate m w a delivered : Int) = a + roundQuotient m (256 * (delivered : Int) - a) (2 ^ w))

/-- PLACEMENT_COMPLETION (R76, R84, R106, R127 to R130, R137, R138): once placing has ended, the composed list goes out in
telegrams of up to 15 entries, the records of removed grants leave and the others take the number of the telegram that carries
their entry, the interval opens, the counters of the claim controller are updated and the claim decision is made, or waits for
the idle releases (log entry 1); past pulse t+4 the deadline and the timeouts of t follow at once (log entry 13), before any
idle releases (log entry 15). A completion
before the end of placing is that of the state in which the timeouts due have been taken and placing has been finished (log
entry 15); with no placement in flight it has no effect (log entry 2). Unmet FAR (R131): some FAR candidate of a valid tag has
no grant of a direction it is a candidate of; a band carries FAR (R84) when a FAR data entry of the list lies on it. -/
def Obligations.PlacementCompletes : Prop :=
  (∀ s : State, s.agenda = [] → s.flight = none → exec .placementCompletion s = .next s) ∧
  (∀ (s : State) (f : Flight), s.agenda = [] → s.flight = some f → GridLaw s →
    ∃ u g, u = finishPlacing movesBound (settleCloses s) ∧ u.flight = some g ∧ g.stage = .ended ∧ g.target = f.target ∧
      u.agenda = [] ∧ u.closesDue = [] ∧ exec .placementCompletion s = exec .placementCompletion u) ∧
  (∀ (s : State) (f : Flight), s.agenda = [] → s.closesDue = [] → s.acting = true → s.flight = some f →
    f.stage = .ended →
    let entries := (f.ranges.map ListEntry.range ++ f.sounds.map (fun x => ListEntry.sound x.1 x.2) ++
      f.grants.map ListEntry.data).filter fun e => (s.slotOf e.tag).isSome
    let pieces := listPieces entries
    s.txQueue.length + pieces.length ≤ 24 →
    let handed := (((s.setRecords (carryRecords s f.target entries)).setRegister
        (s.register ++ [{ interval := f.target, telegrams := List.replicate pieces.length .queued, late := false }])
        ).setOpenIntervals (s.openIntervals ++
          [⟨f.target, .dl, none⟩, ⟨f.target, .ul, none⟩].filter fun o => !s.isOpen f.target o.dir)).setTxQueue
        (s.txQueue ++ pieces.zipIdx.map fun x => telegram .grantList s.profile.partner
          (grantListPayload f.target x.2 (x.2 + 1 == pieces.length) x.1) (.grantList f.target x.2))
    let counted := (handed.setFarDemand (if f.unmetFar s then min 8 (s.farDemand + 1) else 0)).setClaims
      (Vector.ofFn fun b : Band =>
        if (s.own b).state = .held then
          if farOnBand entries b then { s.own b with idle := 0 }
          else if 127 ≤ (s.own b).idle then s.own b else { s.own b with idle := (s.own b).idle + 1 }
        else s.own b)
    let due := allBands.filter fun b =>
      decide ((s.own b).state = .held) && !farOnBand entries b && decide (127 ≤ (s.own b).idle)
    let claimed := if due = [] then decideClaim counted else counted.setAgenda (due.map Due.idleRelease ++ [.newClaim])
    let done := ((claimed.setCause s.inFlight).setInFlight 0).setFlight none
    let overtaken := if f.target ∈ s.deadlinesDue then
      deadline f.target (done.setDeadlinesDue (s.deadlinesDue.erase f.target)) else done
    exec .placementCompletion s = .next (if 4 ≤ age s.interval f.target ∧ age s.interval f.target ≤ 4093 then
      timeoutClose f.target .ul (timeoutClose f.target .dl overtaken) else done)) ∧
  (∀ entries : List ListEntry, (listPieces entries).flatten = entries ∧ (∀ x ∈ listPieces entries, x.length ≤ 15) ∧
    (entries = [] → listPieces entries = [[]]) ∧ (entries ≠ [] → ∀ x ∈ listPieces entries, x ≠ []) ∧
    ∀ n piece, (listPieces entries)[n]? = some piece → piece = (entries.drop (15 * n)).take 15) ∧
  (∀ (s : State) (n : Interval) (entries : List ListEntry), carryRecords s n entries =
    (s.records.filter fun r => decide (r.interval ≠ n) || (s.slotOf r.tag).isSome).map fun r =>
      if r.interval = n then
        { r with carrier := (entries.findIdx? fun e => match e with
          | .data g => decide (g.dir = r.dir ∧ g.tag = r.tag)
          | .range _ => false
          | .sound _ _ => false).map fun k => k / 15 }
      else r) ∧
  (∀ (f : Flight) (s : State), f.unmetFar s = true ↔ ∃ d, ∃ c ∈ f.candidates.at d,
    c.reach = .far ∧ s.slotOf c.tag ≠ none ∧ ∀ g ∈ f.grants, g.dir = d → g.slot ≠ c.slot) ∧
  ∀ (entries : List ListEntry) (b : Band), farOnBand entries b = true ↔
    ∃ g, ListEntry.data g ∈ entries ∧ g.reach = .far ∧ g.band = b

/-! ### Grant records -/

/-- What a rollback of the records that satisfy `p` does (R140): unorphaned ones give their granted bits back to backlog and
lower pending; all leave the list. -/
def Obligations.RollbackRestores : Prop :=
  ∀ (p : Record → Bool) (s : State), BacklogLaw s →
    (rollbackWhere p s).records = s.records.filter (fun r => !p r) ∧
    (∀ i d, ((rollbackWhere p s).ctx i).pending.at d = (s.ctx i).pending.at d - s.sumOver p (·.granted) i d) ∧
    (∀ i d, ((rollbackWhere p s).ctx i).backlog.at d =
      min 134217727 ((s.ctx i).backlog.at d + s.sumOver p (·.granted) i d)) ∧
    (∀ i, (rollbackWhere p s).ctx i = { s.ctx i with
      pending := ((rollbackWhere p s).ctx i).pending, backlog := ((rollbackWhere p s).ctx i).backlog }) ∧
    Keeps [.contexts, .records] s (rollbackWhere p s)

/-- GRANT_LIST_DEADLINE (R141): telegrams of the interval still QUEUED are removed; those in the queue become WITHDRAWN, their
records are rolled back and LATE_LIST is raised; one on the wire is marked. No effect unless due; it waits for its placement. -/
def Obligations.GrantListDeadlineTaken : Prop :=
  ∀ (s : State) (n : Interval), s.agenda = [] →
    (n ∉ s.deadlinesDue ∨ s.awaited n = true → exec (.grantListDeadline n) s = .next s) ∧
    (n ∈ s.deadlinesDue → s.awaited n = false →
      let late := s.lateLists n
      let queue := removeTelegrams (s.queuedList n) TxTelegram.marked s.txQueue
      let u := (s.setDeadlinesDue (s.deadlinesDue.erase n)).setTxQueue queue
      (∀ k, k ∈ late ↔ s.listState n k = some .queued ∧ ∃ x ∈ s.txQueue, x.owner = .grantList n k ∧ x.onWire = false) ∧
      (late = [] → exec (.grantListDeadline n) s = .next u) ∧
      (late ≠ [] → ∃ t v, exec (.grantListDeadline n) s = .next t ∧
        v = rollbackWhere (fun r => decide (r.interval = n) && r.carrier.any fun k => late.contains k) u ∧
        t.records = v.records ∧ t.contexts = v.contexts ∧ t.raised .lateList = true ∧
        (∀ k ∈ late, t.listState n k = some .withdrawn) ∧ (∀ k ∉ late, t.listState n k = s.listState n k) ∧
        (∀ m k, m ≠ n → t.listState m k = s.listState m k) ∧ (∃ more, t.txQueue = queue ++ more) ∧
        Keeps [.deadlinesDue, .txQueue, .records, .contexts, .register, .flags] s t))

/-- CLOSE_BY_TIMEOUT (R144): closes with cause TIMEOUT, and raises USAGE_TIMEOUT when an unorphaned record of the interval and
direction has no delivered value. No effect unless due and open. -/
def Obligations.CloseByTimeoutTaken : Prop :=
  ∀ (s : State) (n : Interval) (d : Direction), s.agenda = [] →
    let u := s.setClosesDue (s.closesDue.erase (n, d))
    ((n, d) ∉ s.closesDue → exec (.closeByTimeout n d) s = .next s) ∧
    ((n, d) ∈ s.closesDue → s.isOpen n d = false → exec (.closeByTimeout n d) s = .next u) ∧
    ((n, d) ∈ s.closesDue → s.isOpen n d = true →
      (∀ r ∈ s.records, r.interval = n → r.dir = d → r.orphan = false → r.delivered ≠ none) →
      exec (.closeByTimeout n d) s = .next (closeInterval n d .timeout u)) ∧
    ((n, d) ∈ s.closesDue → s.isOpen n d = true →
      (∃ r ∈ s.records, r.interval = n ∧ r.dir = d ∧ r.orphan = false ∧ r.delivered = none) →
      exec (.closeByTimeout n d) s = .next (raise .usageTimeout (closeInterval n d .timeout u)))

/-- What a close does (R137, R143 to R146): its records settle, undelivered bits return to backlog, every ACTIVE context's average
is updated, and the records, the open interval and (with the second direction) the register entry go. -/
def Obligations.CloseSettles : Prop :=
  ∀ (n : Interval) (d : Direction) (cause : CloseCause) (s : State), BacklogLaw s →
    let mine := fun r : Record => decide (r.interval = n) && decide (r.dir = d)
    let settled := fun r : Record => r.delivered.getD (if cause = .last then 0 else r.granted)
    let t := closeInterval n d cause s
    t.records = s.records.filter (fun r => !mine r) ∧
    t.openIntervals = s.openIntervals.filter (fun o => !(decide (o.interval = n) && decide (o.dir = d))) ∧
    ((∃ o ∈ s.openIntervals, o.interval = n ∧ o.dir ≠ d) → t.register = s.register) ∧
    ((∀ o ∈ s.openIntervals, o.interval = n → o.dir = d) →
      t.register = s.register.filter fun e => !decide (e.interval = n)) ∧
    (∀ i e, (t.ctx i).pending.at e = (s.ctx i).pending.at e - s.sumOver mine (·.granted) i e) ∧
    (∀ i e, (t.ctx i).backlog.at e =
      min 134217727 ((s.ctx i).backlog.at e + s.sumOver mine (fun r => r.granted - settled r) i e)) ∧
    (∀ i, (s.ctx i).life = .active → (s.records.filter fun r => mine r && decide (r.slot = i) && !r.orphan).length ≤ 1 →
      (t.ctx i).average.at d = averageUpdate s.profile.rounding s.profile.smoothing ((s.ctx i).average.at d)
        (s.sumOver mine settled i d)) ∧
    (∀ i e, (s.ctx i).life ≠ .active ∨ e ≠ d → (t.ctx i).average.at e = (s.ctx i).average.at e) ∧
    (∀ i, t.ctx i = { s.ctx i with
      pending := (t.ctx i).pending, backlog := (t.ctx i).backlog, average := (t.ctx i).average }) ∧
    Keeps [.contexts, .records, .openIntervals, .register] s t

/-! ### The bus interface -/

/-- FRAME_RECEIVED (R151, R154 to R156): a whole frame for this station from a source of the right role enters the receive buffer,
or with eight in it is dropped with RX_OVERRUN; any other, and damaged cells, are discarded. The codes of the kinds (R154) and
the role each kind asks of its source (R155): a station of the neighbour mask, the partner modem, the management station; a
kind the part does not act on has none. While the part's own telegram is on the wire what it reads is its own frame (log
entry 18). -/
def Obligations.FrameReceivedFiltered : Prop :=
  (∀ (s : State) (code : Nat) (source dest : Station) (p : List Byte), s.agenda = [] → s.acting = true → s.wire = none →
    code < 32 → p.length ≤ 64 →
    let f : Frame := { code := code, source := source, dest := dest, payload := p }
    (∀ k, Kind.ofCode code = some k → (dest = s.ownStation ∨ dest = 15) → source ≠ 15 → s.roleHolds k source = true →
      (s.rxBuffer.length < 8 → exec (.frameReceived f.cells) s = .next (s.setRxBuffer
        (s.rxBuffer ++ [{ kind := k, source := source, payload := p }]))) ∧
      (8 ≤ s.rxBuffer.length → exec (.frameReceived f.cells) s = .next (raise .rxOverrun s))) ∧
    ((∀ k, Kind.ofCode code = some k → dest ≠ s.ownStation ∧ dest ≠ 15 ∨ source = 15 ∨ s.roleHolds k source = false) →
      exec (.frameReceived f.cells) s = .next s)) ∧
  (∀ (s : State) (cells : List Bool), s.agenda = [] → readFrame cells = none → exec (.frameReceived cells) s = .next s) ∧
  (∀ (s : State) (cells : List Bool), s.agenda = [] → s.wire ≠ none → exec (.frameReceived cells) s = .next s) ∧
  (∀ (s : State) (source : Station),
    (∀ k ∈ [Kind.claim, .bandRelease, .admission],
      s.roleHolds k source = true ↔ s.profile.neighbourMask.getLsbD source.val = true) ∧
    (∀ k ∈ [Kind.usage, .attach, .range, .quality, .buffer, .detach],
      s.roleHolds k source = true ↔ source = s.profile.partner) ∧
    (∀ k ∈ [Kind.query, .release, .retrain, .clear, .reset],
      s.roleHolds k source = true ↔ source = s.profile.management) ∧
    ∀ k ∈ [Kind.grantList, .tagAssign, .attachRefuse, .releaseNotice, .status, .alert], s.roleHolds k source = false) ∧
  ∀ (code : Nat) (k : Kind), Kind.ofCode code = some k ↔ (code, k) ∈
    [(1, .claim), (2, .bandRelease), (3, .admission), (5, .grantList), (8, .usage), (9, .attach), (10, .range), (11, .quality),
     (12, .buffer), (13, .detach), (16, .tagAssign), (17, .attachRefuse), (18, .releaseNotice), (20, .query), (21, .release),
     (22, .retrain), (23, .clear), (24, .reset), (28, .status), (29, .alert)]

/-- FRAME_TRANSMIT_START (R152, R153, R157): the telegram sent is the oldest of the highest class; what is read back over the
nine arbitration cells decides whether it goes on, loses, or ends in a transmit error, which is that of the telegram on the
wire. The codes and classes of the kinds are those of R154. -/
def Obligations.FrameTransmitStarts : Prop :=
  (∀ (s : State) (bus : BitVec 9), s.agenda = [] → s.acting = true →
    (s.wire ≠ none ∨ s.txQueue = [] → exec (.frameTransmitStart bus) s = .next s) ∧
    ∀ (before after : List TxTelegram) (x : TxTelegram), s.wire = none → s.txQueue = before ++ x :: after →
      (∀ y ∈ before, x.kind.priority < y.kind.priority) → (∀ y ∈ after, x.kind.priority ≤ y.kind.priority) →
      let drive := BitVec.ofNat 9 (x.kind.code * 16 + s.ownStation.val)
      (bus = drive → exec (.frameTransmitStart bus) s =
        .next (s.setTxQueue (before ++ { x with onWire := true } :: after))) ∧
      (bus < drive → exec (.frameTransmitStart bus) s = .next s) ∧
      (drive < bus → exec (.frameTransmitStart bus) s =
        exec .transmitError (s.setTxQueue (before ++ { x with onWire := true } :: after))) ∧
      (drive < bus → x.removal = false → x.attempts < 2 → exec (.frameTransmitStart bus) s =
        .next (s.setTxQueue (before ++ { x with attempts := x.attempts + 1 } :: after))) ∧
      (drive < bus → x.removal = false → 2 ≤ x.attempts → x.owner = .unreported → s.resetSeq = none →
        exec (.frameTransmitStart bus) s = .next (raise .txFail (s.setTxQueue (before ++ after))))) ∧
  ∀ k : Kind, (k, k.code, k.priority) ∈
    [(.claim, 1, 1), (.bandRelease, 2, 1), (.admission, 3, 1), (.grantList, 5, 2), (.usage, 8, 3), (.attach, 9, 3),
     (.range, 10, 3), (.quality, 11, 3), (.buffer, 12, 3), (.detach, 13, 3), (.tagAssign, 16, 4), (.attachRefuse, 17, 4),
     (.releaseNotice, 18, 4), (.query, 20, 5), (.release, 21, 5), (.retrain, 22, 5), (.clear, 23, 5), (.reset, 24, 5),
     (.status, 28, 6), (.alert, 29, 6)]

/-- FRAME_SENT (R79, R83, R139, R153, R160, R177): the telegram leaves the queue and its owner hears of it. The model's
choices: with nothing on the wire it has no effect (log entry 2), and nobody hears of a disowned telegram (log entry 14). -/
def Obligations.FrameSentReported : Prop :=
  ∀ s : State, s.agenda = [] →
    (s.wire = none → exec .frameSent s = .next s) ∧
    ∀ x : TxTelegram, s.wire = some x →
      let u := s.setTxQueue (s.txQueue.filter fun y => !y.onWire)
      (s.resetSeq = none ∨ (∃ y ∈ u.txQueue, y.ofSequence = true) →
        (∀ b a, x.owner = .claim b → (s.own b).outstanding = some a → (s.own b).state = .announced →
          (s.own b).phase = none →
          exec .frameSent s = .next (u.putOwn b { s.own b with outstanding := none, phase := some 8 })) ∧
        (∀ b a, x.owner = .claim b → (s.own b).outstanding = some a →
          ((s.own b).state ≠ .announced ∨ (s.own b).phase ≠ none) →
          exec .frameSent s = .next (u.putOwn b { s.own b with outstanding := none })) ∧
        (∀ b, x.owner = .claim b → (s.own b).outstanding = none → exec .frameSent s = .next u) ∧
        (∀ n k, x.owner = .grantList n k → s.listState n k = some .queued →
          ∃ t, exec .frameSent s = .next t ∧ t.listState n k = some .sent ∧
            (∀ m j, (m, j) ≠ (n, k) → t.listState m j = s.listState m j) ∧ t.txQueue = u.txQueue ∧
            Keeps [.txQueue, .register] s t) ∧
        (∀ n k, x.owner = .grantList n k → s.listState n k ≠ some .queued → exec .frameSent s = .next u) ∧
        ((∃ b q, x.owner = .bandRelease b q) ∨ x.owner = .unreported ∨ x.owner = .disowned →
          exec .frameSent s = .next u)) ∧
      (s.resetSeq ≠ none → (∀ y ∈ u.txQueue, y.ofSequence = false) →
        ∃ t, exec .frameSent s = .next t ∧ StationReset s t)

/-- TRANSMIT_ERROR (R79, R80, R83, R139, R141, R153, R159): below three attempts the telegram stays for another; at the third it is
dropped with TX_FAIL; one asked to be removed is removed and not attempted again; its owner hears of either, and with the last
BAND RELEASE of a reset sequence gone the reset takes effect. The model's choices: with nothing on the wire it has no effect
(log entry 2), and nobody hears of a disowned telegram (log entry 14). -/
def Obligations.TransmitErrorTaken : Prop :=
  ∀ s : State, s.agenda = [] →
    (s.wire = none → exec .transmitError s = .next s) ∧
    ∀ x : TxTelegram, s.wire = some x →
      let u := s.setTxQueue (s.txQueue.filter fun y => !y.onWire)
      (∀ before after, s.txQueue = before ++ x :: after → (∀ y ∈ before, y.onWire = false) → x.removal = false →
        x.attempts < 2 → exec .transmitError s = .next (s.setTxQueue
          (before ++ { x with attempts := x.attempts + 1, onWire := false } :: after))) ∧
      (s.resetSeq = none ∨ (∃ y ∈ u.txQueue, y.ofSequence = true) →
        (x.owner = .unreported ∨ x.owner = .disowned ∨ (∃ b q, x.owner = .bandRelease b q) ∨
            (∃ b, x.owner = .claim b ∧ (s.own b).outstanding = none) ∨
            (∃ n k, x.owner = .grantList n k ∧ s.listState n k ≠ some .queued) →
          (x.removal = true → exec .transmitError s = .next u) ∧
          (x.removal = false → 2 ≤ x.attempts → exec .transmitError s = .next (raise .txFail u))) ∧
        (∀ b a, x.owner = .claim b → (s.own b).outstanding = some a →
          let gone := if (s.own b).state = .announced ∧ (s.own b).phase = none
            then { s.own b with state := .free, announced := none, phase := none, outstanding := none }
            else { s.own b with outstanding := none }
          (x.removal = true → exec .transmitError s = .next (u.putOwn b gone)) ∧
          (x.removal = false → 2 ≤ x.attempts → exec .transmitError s = .next ((raise .txFail u).putOwn b gone))) ∧
        (∀ n k, x.owner = .grantList n k → s.listState n k = some .queued →
          let rolled := rollbackWhere fun r => decide (r.interval = n) && decide (r.carrier = some k)
          (x.removal = true → ∃ t v, exec .transmitError s = .next t ∧
            v = rolled (u.setRegister (s.register.map fun e =>
              if e.interval = n then { e with telegrams := e.telegrams.set k .withdrawn, late := true } else e)) ∧
            t = (if (s.registerOf n).any (·.late) then v else raise .lateList v) ∧
            t.records = (rolled u).records ∧ t.contexts = (rolled u).contexts ∧
            t.listState n k = some .withdrawn ∧ (∀ m j, (m, j) ≠ (n, k) → t.listState m j = s.listState m j) ∧
            ((∀ e ∈ s.register, e.interval = n → e.late = false) → t.raised .lateList = true)) ∧
          (x.removal = false → 2 ≤ x.attempts → ∃ t, exec .transmitError s = .next t ∧
            t = rolled ((raise .txFail u).setRegister (s.register.map fun e =>
              if e.interval = n then { e with telegrams := e.telegrams.set k .dropped } else e)) ∧
            t.records = (rolled u).records ∧ t.contexts = (rolled u).contexts ∧
            t.listState n k = some .dropped ∧ (∀ m j, (m, j) ≠ (n, k) → t.listState m j = s.listState m j) ∧
            t.raised .txFail = true ∧ t.raised .lateList = s.raised .lateList))) ∧
      (s.resetSeq ≠ none → (∀ y ∈ u.txQueue, y.ofSequence = false) → (x.removal = true ∨ 2 ≤ x.attempts) →
        ∃ t, exec .transmitError s = .next t ∧ StationReset s t)

/-- Offering a telegram (R157, R158): with room it is queued last; at 24 it evicts the newest of the lowest class below its own that
is not on the wire, whose owner hears of it, or is refused with TX_FAIL, of which its own owner hears. -/
def Obligations.OfferAndEviction : Prop :=
  ∀ (x : TxTelegram) (s : State), s.acting = true →
    (s.txQueue.length < 24 → offer x s = s.setTxQueue (s.txQueue ++ [x])) ∧
    (24 ≤ s.txQueue.length → (∀ y ∈ s.txQueue, y.onWire = true ∨ y.kind.priority ≤ x.kind.priority) →
      offer x s = reportDropped x.owner (raise .txFail s)) ∧
    (∀ before after v, 24 ≤ s.txQueue.length → s.txQueue = before ++ v :: after → v.onWire = false →
      x.kind.priority < v.kind.priority →
      (∀ y ∈ before, y.onWire = true ∨ y.kind.priority ≤ v.kind.priority) →
      (∀ y ∈ after, y.onWire = true ∨ y.kind.priority < v.kind.priority) →
      offer x s = reportDropped v.owner (s.setTxQueue (before ++ after ++ [x])))

/-- Reading a frame's cells gives back its contents (R151), for every kind code, source, destination and payload the format
can carry, whatever cells follow, and nothing but the cells of a whole frame is read; one cell of the check wrong is never
accepted. The cells are the start cell, kind, source, destination, length, payload, check and end cell, each field with its
most significant bit first; the check is preset to FFFFh and takes each cell with generator 1021h. -/
def Obligations.FrameRoundTrip : Prop :=
  (∀ (f : Frame) (more : List Bool), f.code < 32 → f.payload.length ≤ 64 → readFrame (f.cells ++ more) = some f ∧
    ∀ k < 16, readFrame ((f.cells ++ more).modify (1 + f.body.length + k) (!·)) = none) ∧
  (∀ (cells : List Bool) (f : Frame), readFrame cells = some f →
    f.code < 32 ∧ f.payload.length ≤ 64 ∧ ∃ more, cells = f.cells ++ more) ∧
  (∀ f : Frame,
    let sent := fun width value : Nat => (List.range width).map fun i => value.testBit (width - 1 - i)
    let body := sent 5 f.code ++ sent 4 f.source.val ++ sent 4 f.dest.val ++ sent 7 f.payload.length ++
      f.payload.flatMap fun b => sent 8 b.toNat
    f.cells = [false] ++ body ++ sent 16 (crc16 body).toNat ++ [false]) ∧
  crc16 [] = 0xFFFF#16 ∧
  ∀ (cells : List Bool) (c : Bool), crc16 (cells ++ [c]) =
    if (crc16 cells).getLsbD 15 = c then crc16 cells <<< 1 else (crc16 cells <<< 1) ^^^ 0x1021#16

/-- The layouts of R162: what the part sends of CLAIM, BAND RELEASE and ADMIT reads back; each telegram it acts on is read
from the bits the layout gives, whatever its spare bits hold; CLAIM, BAND RELEASE, ADMIT, TAG ASSIGN, ATTACH REFUSE and GRANT
LIST are sent as the layout gives them, spare bits 0. -/
def Obligations.PayloadLayouts : Prop :=
  (∀ (b : Band) (a : Interval), readClaim (claimPayload b a) = some { band := b.val, interval := a }) ∧
  (∀ b : Band, readBandRelease (bandReleasePayload b) = some b.val) ∧
  (∀ (id : Identity) (q : Quality) (a : Interval),
    readAdmit (admitPayload id q a) = some { identity := id, quality := q, interval := a }) ∧
  (∀ (b : Band) (a : Interval), claimPayload b a = bytesOf 2 (b.val * 2 ^ 13 + a.val) ∧
    bandReleasePayload b = bytesOf 1 (b.val * 2 ^ 5)) ∧
  (∀ (id : Identity) (q : Quality) (a : Interval),
    let p := bytesOf 5 (id.toNat * 2 ^ 16 + q.val * 2 ^ 12 + a.val)
    admitPayload id q a = p ∧ readAdmit p = some { identity := id, quality := q, interval := a }) ∧
  (∀ (band : Nat) (a : Interval) (spare : Bool), band < 8 →
    readClaim (bytesOf 2 (band * 2 ^ 13 + (if spare then 2 ^ 12 else 0) + a.val)) = some { band := band, interval := a }) ∧
  (∀ band spare : Nat, band < 8 → spare < 2 ^ 5 → readBandRelease (bytesOf 1 (band * 2 ^ 5 + spare)) = some band) ∧
  (∀ (id : Identity) (nomadic : Bool) (cls : ServiceClass) (q : Quality) (spare delay : Nat), spare < 2 ^ 6 → delay < 2048 →
    readAttach (bytesOf 6 (id.toNat * 2 ^ 24 + (if nomadic then 2 ^ 23 else 0) + cls.val * 2 ^ 21 + q.val * 2 ^ 17 +
      spare * 2 ^ 11 + delay)) =
      some { identity := id, kind := if nomadic then .nomadic else .fixed, cls := cls, quality := q, delay := delay }) ∧
  (∀ (g : Tag) (q : Vector Quality 6) (spare : Bool) (e : BitVec 7),
    readQuality (bytesOf 5 (g.val * 2 ^ 32 + q[0].val * 2 ^ 28 + q[1].val * 2 ^ 24 + q[2].val * 2 ^ 20 + q[3].val * 2 ^ 16 +
      q[4].val * 2 ^ 12 + q[5].val * 2 ^ 8 + (if spare then 2 ^ 7 else 0) + e.toNat)) =
      some { tag := g, q := q, error := e.toInt }) ∧
  (∀ (g : Tag) (spare delay : Nat), spare < 2 ^ 5 → delay < 2048 →
    readRange (bytesOf 3 (g.val * 2 ^ 16 + spare * 2 ^ 11 + delay)) = some { tag := g, delay := delay }) ∧
  (∀ (g : Tag) (ul : Bool) (spare n : Nat), spare < 2 ^ 7 → n < 2 ^ 24 →
    readBuffer (bytesOf 5 (g.val * 2 ^ 32 + (if ul then 2 ^ 31 else 0) + spare * 2 ^ 24 + n)) =
      some { tag := g, dir := if ul then .ul else .dl, bytes := n }) ∧
  (∀ g : Tag, readTag (bytesOf 1 g.val) = some g) ∧
  (∀ g : Tag, readQuery [0#8, BitVec.ofNat 8 g.val] = some (.byTag g)) ∧
  (∀ x : Byte, readQuery [1#8, x] = some .ofStation ∧ ∀ y : Byte, 2 ≤ y.toNat → readQuery [y, x] = none) ∧
  (∀ m : BitVec 16, readClear (bytesOf 2 m.toNat) = some m) ∧
  (∀ (a : Interval) (ul last : Bool) (spare : Nat) (es : List (Tag × Fin 4096 × Fin 16)), spare < 2 ^ 5 → es.length ≤ 20 →
    readUsage (bytesOf 3 (a.val * 4096 + (if ul then 2048 else 0) + (if last then 1024 else 0) + spare * 2 ^ 5 + es.length) ++
      es.flatMap fun e => bytesOf 3 (e.1.val * 2 ^ 16 + e.2.1.val * 16 + e.2.2.val)) =
      some { interval := a, dir := if ul then .ul else .dl, last := last, entries := es.map fun e => (e.1, e.2.1.val) }) ∧
  (∀ (g : Tag) (id : Identity), tagAssignPayload g id = bytesOf 4 (g.val * 2 ^ 24 + id.toNat) ∧
    attachRefusePayload id .rangeOut = bytesOf 4 (id.toNat * 2 ^ 8 + 1) ∧
    attachRefusePayload id .tableFull = bytesOf 4 (id.toNat * 2 ^ 8 + 2)) ∧
  (∀ (n : Interval) (k : Nat) (last : Bool) (entries : List ListEntry), k < 8 → entries.length ≤ 15 →
    grantListPayload n k last entries =
      bytesOf 3 (n.val * 2 ^ 12 + k * 2 ^ 9 + (if last then 2 ^ 8 else 0) + entries.length * 2 ^ 4) ++
        entries.flatMap fun e => bytesOf 4 e.word) ∧
  (∀ g : Tag, (ListEntry.range g).word = g.val * 2 ^ 24 + 3 * 2 ^ 22) ∧
  (∀ (g : Tag) (j : Subchannel), (ListEntry.sound g j).word = g.val * 2 ^ 24 + 2 * 2 ^ 22 + j.val * 2 ^ 16 + 1 * 2 ^ 10) ∧
  ∀ (g : Grant) (code : Nat), g.size = 2 ^ code → code < 4 → g.count ≤ 8 →
    (ListEntry.data g).word = g.tag.val * 2 ^ 24 + (if g.dir = .ul then 2 ^ 22 else 0) + g.start.val * 2 ^ 16 +
      code * 2 ^ 14 + g.count * 2 ^ 10 + (if g.order = .interleaved then 2 ^ 9 else 0) +
      (if g.reach = .far then 2 ^ 8 else 0) + g.quality.val * 2 ^ 4

/-! ### Laws that every step keeps -/

/-- The laws hold right after reset. -/
def Obligations.LawsAtReset : Prop :=
  StationLaw State.reset ∧ SizeLaw State.reset ∧ MapLaw State.reset ∧ QuotaLaw State.reset ∧ TableLaw State.reset ∧
    PendingLaw State.reset ∧ RangeLaw State.reset ∧ OpenLaw State.reset ∧ GridLaw State.reset

/-- Every step keeps the station law (R4, R7, R8, R174 to R178). -/
def Obligations.StationLawKept : Prop :=
  ∀ s t : State, StationLaw s → step s = .next t → StationLaw t

/-- Every step keeps the sizes of the queues and lists, six open intervals of a direction at most among them, and the ranges of
every counted value (R15, R17, R50, R73, R74, R110, R126, R136, R137, R156, R158, R173). -/
def Obligations.SizesAndRangesKept : Prop :=
  ∀ s t : State, StationLaw s → step s = .next t →
    (SizeLaw s → SizeLaw t) ∧ (RangeLaw s → RangeLaw t) ∧ (OpenLaw s → OpenLaw t)

/-- Every step keeps the law that a band this station claims has no neighbour entry (R74), and the quota (R78). -/
def Obligations.ClaimLawsKept : Prop :=
  ∀ s t : State, StationLaw s → MapLaw s → step s = .next t → MapLaw t ∧ (QuotaLaw s → QuotaLaw t)

/-- Every step keeps the law of the table and the tag map (R16, R17, R19). -/
def Obligations.TableLawKept : Prop :=
  ∀ s t : State, StationLaw s → TableLaw s → step s = .next t → TableLaw t

/-- Every step keeps the law of pending: what a context's unorphaned records were granted (R140). -/
def Obligations.PendingLawKept : Prop :=
  ∀ s t : State, StationLaw s → TableLaw s → PendingLaw s → step s = .next t → PendingLaw t

/-- Every step keeps the laws of the placement in flight: no unit twice, no sounding unit, every grant inside one block (R3,
R13), no two grants of one direction for one slot (R123), a FAR grant on a band own HELD in the snapshot only (R132). -/
def Obligations.GridLawKept : Prop :=
  ∀ s t : State, StationLaw s → GridLaw s → step s = .next t → GridLaw t
end

