-- ==== Sys2Proof/Laws/State.lean ====
section
/-! SUPPORT. One lemma per field per update of the state (Machine/State.lean), and the reads of the tables after each
update and each table write (Machine/Ops.lean). All true by computation; no later proof unfolds a record update. -/
namespace Sys2Proof.Machine

section ResetN
variable (s : State) (v : Bool)

@[simp] theorem setResetN_resetN : (s.setResetN v).resetN = v := rfl
@[simp] theorem setResetN_ownStation : (s.setResetN v).ownStation = s.ownStation := rfl
@[simp] theorem setResetN_profile : (s.setResetN v).profile = s.profile := rfl
@[simp] theorem setResetN_station : (s.setResetN v).station = s.station := rfl
@[simp] theorem setResetN_resume : (s.setResetN v).resume = s.resume := rfl
@[simp] theorem setResetN_listening : (s.setResetN v).listening = s.listening := rfl
@[simp] theorem setResetN_resetSeq : (s.setResetN v).resetSeq = s.resetSeq := rfl
@[simp] theorem setResetN_interval : (s.setResetN v).interval = s.interval := rfl
@[simp] theorem setResetN_synced : (s.setResetN v).synced = s.synced := rfl
@[simp] theorem setResetN_contexts : (s.setResetN v).contexts = s.contexts := rfl
@[simp] theorem setResetN_tags : (s.setResetN v).tags = s.tags := rfl
@[simp] theorem setResetN_tagPtr : (s.setResetN v).tagPtr = s.tagPtr := rfl
@[simp] theorem setResetN_refreshPtr : (s.setResetN v).refreshPtr = s.refreshPtr := rfl
@[simp] theorem setResetN_claims : (s.setResetN v).claims = s.claims := rfl
@[simp] theorem setResetN_farDemand : (s.setResetN v).farDemand = s.farDemand := rfl
@[simp] theorem setResetN_spacing : (s.setResetN v).spacing = s.spacing := rfl
@[simp] theorem setResetN_neighbours : (s.setResetN v).neighbours = s.neighbours := rfl
@[simp] theorem setResetN_cause : (s.setResetN v).cause = s.cause := rfl
@[simp] theorem setResetN_inFlight : (s.setResetN v).inFlight = s.inFlight := rfl
@[simp] theorem setResetN_flight : (s.setResetN v).flight = s.flight := rfl
@[simp] theorem setResetN_placementsDue : (s.setResetN v).placementsDue = s.placementsDue := rfl
@[simp] theorem setResetN_fallbackPtr : (s.setResetN v).fallbackPtr = s.fallbackPtr := rfl
@[simp] theorem setResetN_records : (s.setResetN v).records = s.records := rfl
@[simp] theorem setResetN_openIntervals : (s.setResetN v).openIntervals = s.openIntervals := rfl
@[simp] theorem setResetN_register : (s.setResetN v).register = s.register := rfl
@[simp] theorem setResetN_deadlinesDue : (s.setResetN v).deadlinesDue = s.deadlinesDue := rfl
@[simp] theorem setResetN_closesDue : (s.setResetN v).closesDue = s.closesDue := rfl
@[simp] theorem setResetN_txQueue : (s.setResetN v).txQueue = s.txQueue := rfl
@[simp] theorem setResetN_rxBuffer : (s.setResetN v).rxBuffer = s.rxBuffer := rfl
@[simp] theorem setResetN_flags : (s.setResetN v).flags = s.flags := rfl
@[simp] theorem setResetN_agenda : (s.setResetN v).agenda = s.agenda := rfl
@[simp] theorem setResetN_freeCount : (s.setResetN v).freeCount = s.freeCount := rfl
@[simp] theorem setResetN_pending : (s.setResetN v).pending = s.pending := rfl
@[simp] theorem setResetN_ctx (i : Slot) : (s.setResetN v).ctx i = s.ctx i := rfl
@[simp] theorem setResetN_tagEntry (t : Tag) : (s.setResetN v).tagEntry t = s.tagEntry t := rfl
@[simp] theorem setResetN_slotOf (t : Tag) : (s.setResetN v).slotOf t = s.slotOf t := rfl
@[simp] theorem setResetN_own (b : Band) : (s.setResetN v).own b = s.own b := rfl
@[simp] theorem setResetN_neighbour (b : Band) : (s.setResetN v).neighbour b = s.neighbour b := rfl
@[simp] theorem setResetN_acting : (s.setResetN v).acting = s.acting := rfl

end ResetN

section OwnStation
variable (s : State) (v : Station)

@[simp] theorem setOwnStation_resetN : (s.setOwnStation v).resetN = s.resetN := rfl
@[simp] theorem setOwnStation_ownStation : (s.setOwnStation v).ownStation = v := rfl
@[simp] theorem setOwnStation_profile : (s.setOwnStation v).profile = s.profile := rfl
@[simp] theorem setOwnStation_station : (s.setOwnStation v).station = s.station := rfl
@[simp] theorem setOwnStation_resume : (s.setOwnStation v).resume = s.resume := rfl
@[simp] theorem setOwnStation_listening : (s.setOwnStation v).listening = s.listening := rfl
@[simp] theorem setOwnStation_resetSeq : (s.setOwnStation v).resetSeq = s.resetSeq := rfl
@[simp] theorem setOwnStation_interval : (s.setOwnStation v).interval = s.interval := rfl
@[simp] theorem setOwnStation_synced : (s.setOwnStation v).synced = s.synced := rfl
@[simp] theorem setOwnStation_contexts : (s.setOwnStation v).contexts = s.contexts := rfl
@[simp] theorem setOwnStation_tags : (s.setOwnStation v).tags = s.tags := rfl
@[simp] theorem setOwnStation_tagPtr : (s.setOwnStation v).tagPtr = s.tagPtr := rfl
@[simp] theorem setOwnStation_refreshPtr : (s.setOwnStation v).refreshPtr = s.refreshPtr := rfl
@[simp] theorem setOwnStation_claims : (s.setOwnStation v).claims = s.claims := rfl
@[simp] theorem setOwnStation_farDemand : (s.setOwnStation v).farDemand = s.farDemand := rfl
@[simp] theorem setOwnStation_spacing : (s.setOwnStation v).spacing = s.spacing := rfl
@[simp] theorem setOwnStation_neighbours : (s.setOwnStation v).neighbours = s.neighbours := rfl
@[simp] theorem setOwnStation_cause : (s.setOwnStation v).cause = s.cause := rfl
@[simp] theorem setOwnStation_inFlight : (s.setOwnStation v).inFlight = s.inFlight := rfl
@[simp] theorem setOwnStation_flight : (s.setOwnStation v).flight = s.flight := rfl
@[simp] theorem setOwnStation_placementsDue : (s.setOwnStation v).placementsDue = s.placementsDue := rfl
@[simp] theorem setOwnStation_fallbackPtr : (s.setOwnStation v).fallbackPtr = s.fallbackPtr := rfl
@[simp] theorem setOwnStation_records : (s.setOwnStation v).records = s.records := rfl
@[simp] theorem setOwnStation_openIntervals : (s.setOwnStation v).openIntervals = s.openIntervals := rfl
@[simp] theorem setOwnStation_register : (s.setOwnStation v).register = s.register := rfl
@[simp] theorem setOwnStation_deadlinesDue : (s.setOwnStation v).deadlinesDue = s.deadlinesDue := rfl
@[simp] theorem setOwnStation_closesDue : (s.setOwnStation v).closesDue = s.closesDue := rfl
@[simp] theorem setOwnStation_txQueue : (s.setOwnStation v).txQueue = s.txQueue := rfl
@[simp] theorem setOwnStation_rxBuffer : (s.setOwnStation v).rxBuffer = s.rxBuffer := rfl
@[simp] theorem setOwnStation_flags : (s.setOwnStation v).flags = s.flags := rfl
@[simp] theorem setOwnStation_agenda : (s.setOwnStation v).agenda = s.agenda := rfl
@[simp] theorem setOwnStation_freeCount : (s.setOwnStation v).freeCount = s.freeCount := rfl
@[simp] theorem setOwnStation_pending : (s.setOwnStation v).pending = s.pending := rfl
@[simp] theorem setOwnStation_ctx (i : Slot) : (s.setOwnStation v).ctx i = s.ctx i := rfl
@[simp] theorem setOwnStation_tagEntry (t : Tag) : (s.setOwnStation v).tagEntry t = s.tagEntry t := rfl
@[simp] theorem setOwnStation_slotOf (t : Tag) : (s.setOwnStation v).slotOf t = s.slotOf t := rfl
@[simp] theorem setOwnStation_own (b : Band) : (s.setOwnStation v).own b = s.own b := rfl
@[simp] theorem setOwnStation_neighbour (b : Band) : (s.setOwnStation v).neighbour b = s.neighbour b := rfl
@[simp] theorem setOwnStation_acting : (s.setOwnStation v).acting = s.acting := rfl

end OwnStation

section Profile
variable (s : State) (v : Profile)

@[simp] theorem setProfile_resetN : (s.setProfile v).resetN = s.resetN := rfl
@[simp] theorem setProfile_ownStation : (s.setProfile v).ownStation = s.ownStation := rfl
@[simp] theorem setProfile_profile : (s.setProfile v).profile = v := rfl
@[simp] theorem setProfile_station : (s.setProfile v).station = s.station := rfl
@[simp] theorem setProfile_resume : (s.setProfile v).resume = s.resume := rfl
@[simp] theorem setProfile_listening : (s.setProfile v).listening = s.listening := rfl
@[simp] theorem setProfile_resetSeq : (s.setProfile v).resetSeq = s.resetSeq := rfl
@[simp] theorem setProfile_interval : (s.setProfile v).interval = s.interval := rfl
@[simp] theorem setProfile_synced : (s.setProfile v).synced = s.synced := rfl
@[simp] theorem setProfile_contexts : (s.setProfile v).contexts = s.contexts := rfl
@[simp] theorem setProfile_tags : (s.setProfile v).tags = s.tags := rfl
@[simp] theorem setProfile_tagPtr : (s.setProfile v).tagPtr = s.tagPtr := rfl
@[simp] theorem setProfile_refreshPtr : (s.setProfile v).refreshPtr = s.refreshPtr := rfl
@[simp] theorem setProfile_claims : (s.setProfile v).claims = s.claims := rfl
@[simp] theorem setProfile_farDemand : (s.setProfile v).farDemand = s.farDemand := rfl
@[simp] theorem setProfile_spacing : (s.setProfile v).spacing = s.spacing := rfl
@[simp] theorem setProfile_neighbours : (s.setProfile v).neighbours = s.neighbours := rfl
@[simp] theorem setProfile_cause : (s.setProfile v).cause = s.cause := rfl
@[simp] theorem setProfile_inFlight : (s.setProfile v).inFlight = s.inFlight := rfl
@[simp] theorem setProfile_flight : (s.setProfile v).flight = s.flight := rfl
@[simp] theorem setProfile_placementsDue : (s.setProfile v).placementsDue = s.placementsDue := rfl
@[simp] theorem setProfile_fallbackPtr : (s.setProfile v).fallbackPtr = s.fallbackPtr := rfl
@[simp] theorem setProfile_records : (s.setProfile v).records = s.records := rfl
@[simp] theorem setProfile_openIntervals : (s.setProfile v).openIntervals = s.openIntervals := rfl
@[simp] theorem setProfile_register : (s.setProfile v).register = s.register := rfl
@[simp] theorem setProfile_deadlinesDue : (s.setProfile v).deadlinesDue = s.deadlinesDue := rfl
@[simp] theorem setProfile_closesDue : (s.setProfile v).closesDue = s.closesDue := rfl
@[simp] theorem setProfile_txQueue : (s.setProfile v).txQueue = s.txQueue := rfl
@[simp] theorem setProfile_rxBuffer : (s.setProfile v).rxBuffer = s.rxBuffer := rfl
@[simp] theorem setProfile_flags : (s.setProfile v).flags = s.flags := rfl
@[simp] theorem setProfile_agenda : (s.setProfile v).agenda = s.agenda := rfl
@[simp] theorem setProfile_freeCount : (s.setProfile v).freeCount = s.freeCount := rfl
@[simp] theorem setProfile_pending : (s.setProfile v).pending = s.pending := rfl
@[simp] theorem setProfile_ctx (i : Slot) : (s.setProfile v).ctx i = s.ctx i := rfl
@[simp] theorem setProfile_tagEntry (t : Tag) : (s.setProfile v).tagEntry t = s.tagEntry t := rfl
@[simp] theorem setProfile_slotOf (t : Tag) : (s.setProfile v).slotOf t = s.slotOf t := rfl
@[simp] theorem setProfile_own (b : Band) : (s.setProfile v).own b = s.own b := rfl
@[simp] theorem setProfile_neighbour (b : Band) : (s.setProfile v).neighbour b = s.neighbour b := rfl
@[simp] theorem setProfile_acting : (s.setProfile v).acting = s.acting := rfl

end Profile

section Station
variable (s : State) (v : StationState)

@[simp] theorem setStation_resetN : (s.setStation v).resetN = s.resetN := rfl
@[simp] theorem setStation_ownStation : (s.setStation v).ownStation = s.ownStation := rfl
@[simp] theorem setStation_profile : (s.setStation v).profile = s.profile := rfl
@[simp] theorem setStation_station : (s.setStation v).station = v := rfl
@[simp] theorem setStation_resume : (s.setStation v).resume = s.resume := rfl
@[simp] theorem setStation_listening : (s.setStation v).listening = s.listening := rfl
@[simp] theorem setStation_resetSeq : (s.setStation v).resetSeq = s.resetSeq := rfl
@[simp] theorem setStation_interval : (s.setStation v).interval = s.interval := rfl
@[simp] theorem setStation_synced : (s.setStation v).synced = s.synced := rfl
@[simp] theorem setStation_contexts : (s.setStation v).contexts = s.contexts := rfl
@[simp] theorem setStation_tags : (s.setStation v).tags = s.tags := rfl
@[simp] theorem setStation_tagPtr : (s.setStation v).tagPtr = s.tagPtr := rfl
@[simp] theorem setStation_refreshPtr : (s.setStation v).refreshPtr = s.refreshPtr := rfl
@[simp] theorem setStation_claims : (s.setStation v).claims = s.claims := rfl
@[simp] theorem setStation_farDemand : (s.setStation v).farDemand = s.farDemand := rfl
@[simp] theorem setStation_spacing : (s.setStation v).spacing = s.spacing := rfl
@[simp] theorem setStation_neighbours : (s.setStation v).neighbours = s.neighbours := rfl
@[simp] theorem setStation_cause : (s.setStation v).cause = s.cause := rfl
@[simp] theorem setStation_inFlight : (s.setStation v).inFlight = s.inFlight := rfl
@[simp] theorem setStation_flight : (s.setStation v).flight = s.flight := rfl
@[simp] theorem setStation_placementsDue : (s.setStation v).placementsDue = s.placementsDue := rfl
@[simp] theorem setStation_fallbackPtr : (s.setStation v).fallbackPtr = s.fallbackPtr := rfl
@[simp] theorem setStation_records : (s.setStation v).records = s.records := rfl
@[simp] theorem setStation_openIntervals : (s.setStation v).openIntervals = s.openIntervals := rfl
@[simp] theorem setStation_register : (s.setStation v).register = s.register := rfl
@[simp] theorem setStation_deadlinesDue : (s.setStation v).deadlinesDue = s.deadlinesDue := rfl
@[simp] theorem setStation_closesDue : (s.setStation v).closesDue = s.closesDue := rfl
@[simp] theorem setStation_txQueue : (s.setStation v).txQueue = s.txQueue := rfl
@[simp] theorem setStation_rxBuffer : (s.setStation v).rxBuffer = s.rxBuffer := rfl
@[simp] theorem setStation_flags : (s.setStation v).flags = s.flags := rfl
@[simp] theorem setStation_agenda : (s.setStation v).agenda = s.agenda := rfl
@[simp] theorem setStation_freeCount : (s.setStation v).freeCount = s.freeCount := rfl
@[simp] theorem setStation_pending : (s.setStation v).pending = s.pending := rfl
@[simp] theorem setStation_ctx (i : Slot) : (s.setStation v).ctx i = s.ctx i := rfl
@[simp] theorem setStation_tagEntry (t : Tag) : (s.setStation v).tagEntry t = s.tagEntry t := rfl
@[simp] theorem setStation_slotOf (t : Tag) : (s.setStation v).slotOf t = s.slotOf t := rfl
@[simp] theorem setStation_own (b : Band) : (s.setStation v).own b = s.own b := rfl
@[simp] theorem setStation_neighbour (b : Band) : (s.setStation v).neighbour b = s.neighbour b := rfl

end Station

section Resume
variable (s : State) (v : Option Resume)

@[simp] theorem setResume_resetN : (s.setResume v).resetN = s.resetN := rfl
@[simp] theorem setResume_ownStation : (s.setResume v).ownStation = s.ownStation := rfl
@[simp] theorem setResume_profile : (s.setResume v).profile = s.profile := rfl
@[simp] theorem setResume_station : (s.setResume v).station = s.station := rfl
@[simp] theorem setResume_resume : (s.setResume v).resume = v := rfl
@[simp] theorem setResume_listening : (s.setResume v).listening = s.listening := rfl
@[simp] theorem setResume_resetSeq : (s.setResume v).resetSeq = s.resetSeq := rfl
@[simp] theorem setResume_interval : (s.setResume v).interval = s.interval := rfl
@[simp] theorem setResume_synced : (s.setResume v).synced = s.synced := rfl
@[simp] theorem setResume_contexts : (s.setResume v).contexts = s.contexts := rfl
@[simp] theorem setResume_tags : (s.setResume v).tags = s.tags := rfl
@[simp] theorem setResume_tagPtr : (s.setResume v).tagPtr = s.tagPtr := rfl
@[simp] theorem setResume_refreshPtr : (s.setResume v).refreshPtr = s.refreshPtr := rfl
@[simp] theorem setResume_claims : (s.setResume v).claims = s.claims := rfl
@[simp] theorem setResume_farDemand : (s.setResume v).farDemand = s.farDemand := rfl
@[simp] theorem setResume_spacing : (s.setResume v).spacing = s.spacing := rfl
@[simp] theorem setResume_neighbours : (s.setResume v).neighbours = s.neighbours := rfl
@[simp] theorem setResume_cause : (s.setResume v).cause = s.cause := rfl
@[simp] theorem setResume_inFlight : (s.setResume v).inFlight = s.inFlight := rfl
@[simp] theorem setResume_flight : (s.setResume v).flight = s.flight := rfl
@[simp] theorem setResume_placementsDue : (s.setResume v).placementsDue = s.placementsDue := rfl
@[simp] theorem setResume_fallbackPtr : (s.setResume v).fallbackPtr = s.fallbackPtr := rfl
@[simp] theorem setResume_records : (s.setResume v).records = s.records := rfl
@[simp] theorem setResume_openIntervals : (s.setResume v).openIntervals = s.openIntervals := rfl
@[simp] theorem setResume_register : (s.setResume v).register = s.register := rfl
@[simp] theorem setResume_deadlinesDue : (s.setResume v).deadlinesDue = s.deadlinesDue := rfl
@[simp] theorem setResume_closesDue : (s.setResume v).closesDue = s.closesDue := rfl
@[simp] theorem setResume_txQueue : (s.setResume v).txQueue = s.txQueue := rfl
@[simp] theorem setResume_rxBuffer : (s.setResume v).rxBuffer = s.rxBuffer := rfl
@[simp] theorem setResume_flags : (s.setResume v).flags = s.flags := rfl
@[simp] theorem setResume_agenda : (s.setResume v).agenda = s.agenda := rfl
@[simp] theorem setResume_freeCount : (s.setResume v).freeCount = s.freeCount := rfl
@[simp] theorem setResume_pending : (s.setResume v).pending = s.pending := rfl
@[simp] theorem setResume_ctx (i : Slot) : (s.setResume v).ctx i = s.ctx i := rfl
@[simp] theorem setResume_tagEntry (t : Tag) : (s.setResume v).tagEntry t = s.tagEntry t := rfl
@[simp] theorem setResume_slotOf (t : Tag) : (s.setResume v).slotOf t = s.slotOf t := rfl
@[simp] theorem setResume_own (b : Band) : (s.setResume v).own b = s.own b := rfl
@[simp] theorem setResume_neighbour (b : Band) : (s.setResume v).neighbour b = s.neighbour b := rfl
@[simp] theorem setResume_acting : (s.setResume v).acting = s.acting := rfl

end Resume

section Listening
variable (s : State) (v : Nat)

@[simp] theorem setListening_resetN : (s.setListening v).resetN = s.resetN := rfl
@[simp] theorem setListening_ownStation : (s.setListening v).ownStation = s.ownStation := rfl
@[simp] theorem setListening_profile : (s.setListening v).profile = s.profile := rfl
@[simp] theorem setListening_station : (s.setListening v).station = s.station := rfl
@[simp] theorem setListening_resume : (s.setListening v).resume = s.resume := rfl
@[simp] theorem setListening_listening : (s.setListening v).listening = v := rfl
@[simp] theorem setListening_resetSeq : (s.setListening v).resetSeq = s.resetSeq := rfl
@[simp] theorem setListening_interval : (s.setListening v).interval = s.interval := rfl
@[simp] theorem setListening_synced : (s.setListening v).synced = s.synced := rfl
@[simp] theorem setListening_contexts : (s.setListening v).contexts = s.contexts := rfl
@[simp] theorem setListening_tags : (s.setListening v).tags = s.tags := rfl
@[simp] theorem setListening_tagPtr : (s.setListening v).tagPtr = s.tagPtr := rfl
@[simp] theorem setListening_refreshPtr : (s.setListening v).refreshPtr = s.refreshPtr := rfl
@[simp] theorem setListening_claims : (s.setListening v).claims = s.claims := rfl
@[simp] theorem setListening_farDemand : (s.setListening v).farDemand = s.farDemand := rfl
@[simp] theorem setListening_spacing : (s.setListening v).spacing = s.spacing := rfl
@[simp] theorem setListening_neighbours : (s.setListening v).neighbours = s.neighbours := rfl
@[simp] theorem setListening_cause : (s.setListening v).cause = s.cause := rfl
@[simp] theorem setListening_inFlight : (s.setListening v).inFlight = s.inFlight := rfl
@[simp] theorem setListening_flight : (s.setListening v).flight = s.flight := rfl
@[simp] theorem setListening_placementsDue : (s.setListening v).placementsDue = s.placementsDue := rfl
@[simp] theorem setListening_fallbackPtr : (s.setListening v).fallbackPtr = s.fallbackPtr := rfl
@[simp] theorem setListening_records : (s.setListening v).records = s.records := rfl
@[simp] theorem setListening_openIntervals : (s.setListening v).openIntervals = s.openIntervals := rfl
@[simp] theorem setListening_register : (s.setListening v).register = s.register := rfl
@[simp] theorem setListening_deadlinesDue : (s.setListening v).deadlinesDue = s.deadlinesDue := rfl
@[simp] theorem setListening_closesDue : (s.setListening v).closesDue = s.closesDue := rfl
@[simp] theorem setListening_txQueue : (s.setListening v).txQueue = s.txQueue := rfl
@[simp] theorem setListening_rxBuffer : (s.setListening v).rxBuffer = s.rxBuffer := rfl
@[simp] theorem setListening_flags : (s.setListening v).flags = s.flags := rfl
@[simp] theorem setListening_agenda : (s.setListening v).agenda = s.agenda := rfl
@[simp] theorem setListening_freeCount : (s.setListening v).freeCount = s.freeCount := rfl
@[simp] theorem setListening_pending : (s.setListening v).pending = s.pending := rfl
@[simp] theorem setListening_ctx (i : Slot) : (s.setListening v).ctx i = s.ctx i := rfl
@[simp] theorem setListening_tagEntry (t : Tag) : (s.setListening v).tagEntry t = s.tagEntry t := rfl
@[simp] theorem setListening_slotOf (t : Tag) : (s.setListening v).slotOf t = s.slotOf t := rfl
@[simp] theorem setListening_own (b : Band) : (s.setListening v).own b = s.own b := rfl
@[simp] theorem setListening_neighbour (b : Band) : (s.setListening v).neighbour b = s.neighbour b := rfl
@[simp] theorem setListening_acting : (s.setListening v).acting = s.acting := rfl

end Listening

section ResetSeq
variable (s : State) (v : Option Nat)

@[simp] theorem setResetSeq_resetN : (s.setResetSeq v).resetN = s.resetN := rfl
@[simp] theorem setResetSeq_ownStation : (s.setResetSeq v).ownStation = s.ownStation := rfl
@[simp] theorem setResetSeq_profile : (s.setResetSeq v).profile = s.profile := rfl
@[simp] theorem setResetSeq_station : (s.setResetSeq v).station = s.station := rfl
@[simp] theorem setResetSeq_resume : (s.setResetSeq v).resume = s.resume := rfl
@[simp] theorem setResetSeq_listening : (s.setResetSeq v).listening = s.listening := rfl
@[simp] theorem setResetSeq_resetSeq : (s.setResetSeq v).resetSeq = v := rfl
@[simp] theorem setResetSeq_interval : (s.setResetSeq v).interval = s.interval := rfl
@[simp] theorem setResetSeq_synced : (s.setResetSeq v).synced = s.synced := rfl
@[simp] theorem setResetSeq_contexts : (s.setResetSeq v).contexts = s.contexts := rfl
@[simp] theorem setResetSeq_tags : (s.setResetSeq v).tags = s.tags := rfl
@[simp] theorem setResetSeq_tagPtr : (s.setResetSeq v).tagPtr = s.tagPtr := rfl
@[simp] theorem setResetSeq_refreshPtr : (s.setResetSeq v).refreshPtr = s.refreshPtr := rfl
@[simp] theorem setResetSeq_claims : (s.setResetSeq v).claims = s.claims := rfl
@[simp] theorem setResetSeq_farDemand : (s.setResetSeq v).farDemand = s.farDemand := rfl
@[simp] theorem setResetSeq_spacing : (s.setResetSeq v).spacing = s.spacing := rfl
@[simp] theorem setResetSeq_neighbours : (s.setResetSeq v).neighbours = s.neighbours := rfl
@[simp] theorem setResetSeq_cause : (s.setResetSeq v).cause = s.cause := rfl
@[simp] theorem setResetSeq_inFlight : (s.setResetSeq v).inFlight = s.inFlight := rfl
@[simp] theorem setResetSeq_flight : (s.setResetSeq v).flight = s.flight := rfl
@[simp] theorem setResetSeq_placementsDue : (s.setResetSeq v).placementsDue = s.placementsDue := rfl
@[simp] theorem setResetSeq_fallbackPtr : (s.setResetSeq v).fallbackPtr = s.fallbackPtr := rfl
@[simp] theorem setResetSeq_records : (s.setResetSeq v).records = s.records := rfl
@[simp] theorem setResetSeq_openIntervals : (s.setResetSeq v).openIntervals = s.openIntervals := rfl
@[simp] theorem setResetSeq_register : (s.setResetSeq v).register = s.register := rfl
@[simp] theorem setResetSeq_deadlinesDue : (s.setResetSeq v).deadlinesDue = s.deadlinesDue := rfl
@[simp] theorem setResetSeq_closesDue : (s.setResetSeq v).closesDue = s.closesDue := rfl
@[simp] theorem setResetSeq_txQueue : (s.setResetSeq v).txQueue = s.txQueue := rfl
@[simp] theorem setResetSeq_rxBuffer : (s.setResetSeq v).rxBuffer = s.rxBuffer := rfl
@[simp] theorem setResetSeq_flags : (s.setResetSeq v).flags = s.flags := rfl
@[simp] theorem setResetSeq_agenda : (s.setResetSeq v).agenda = s.agenda := rfl
@[simp] theorem setResetSeq_freeCount : (s.setResetSeq v).freeCount = s.freeCount := rfl
@[simp] theorem setResetSeq_pending : (s.setResetSeq v).pending = s.pending := rfl
@[simp] theorem setResetSeq_ctx (i : Slot) : (s.setResetSeq v).ctx i = s.ctx i := rfl
@[simp] theorem setResetSeq_tagEntry (t : Tag) : (s.setResetSeq v).tagEntry t = s.tagEntry t := rfl
@[simp] theorem setResetSeq_slotOf (t : Tag) : (s.setResetSeq v).slotOf t = s.slotOf t := rfl
@[simp] theorem setResetSeq_own (b : Band) : (s.setResetSeq v).own b = s.own b := rfl
@[simp] theorem setResetSeq_neighbour (b : Band) : (s.setResetSeq v).neighbour b = s.neighbour b := rfl
@[simp] theorem setResetSeq_acting : (s.setResetSeq v).acting = s.acting := rfl

end ResetSeq

section Interval
variable (s : State) (v : Interval)

@[simp] theorem setInterval_resetN : (s.setInterval v).resetN = s.resetN := rfl
@[simp] theorem setInterval_ownStation : (s.setInterval v).ownStation = s.ownStation := rfl
@[simp] theorem setInterval_profile : (s.setInterval v).profile = s.profile := rfl
@[simp] theorem setInterval_station : (s.setInterval v).station = s.station := rfl
@[simp] theorem setInterval_resume : (s.setInterval v).resume = s.resume := rfl
@[simp] theorem setInterval_listening : (s.setInterval v).listening = s.listening := rfl
@[simp] theorem setInterval_resetSeq : (s.setInterval v).resetSeq = s.resetSeq := rfl
@[simp] theorem setInterval_interval : (s.setInterval v).interval = v := rfl
@[simp] theorem setInterval_synced : (s.setInterval v).synced = s.synced := rfl
@[simp] theorem setInterval_contexts : (s.setInterval v).contexts = s.contexts := rfl
@[simp] theorem setInterval_tags : (s.setInterval v).tags = s.tags := rfl
@[simp] theorem setInterval_tagPtr : (s.setInterval v).tagPtr = s.tagPtr := rfl
@[simp] theorem setInterval_refreshPtr : (s.setInterval v).refreshPtr = s.refreshPtr := rfl
@[simp] theorem setInterval_claims : (s.setInterval v).claims = s.claims := rfl
@[simp] theorem setInterval_farDemand : (s.setInterval v).farDemand = s.farDemand := rfl
@[simp] theorem setInterval_spacing : (s.setInterval v).spacing = s.spacing := rfl
@[simp] theorem setInterval_neighbours : (s.setInterval v).neighbours = s.neighbours := rfl
@[simp] theorem setInterval_cause : (s.setInterval v).cause = s.cause := rfl
@[simp] theorem setInterval_inFlight : (s.setInterval v).inFlight = s.inFlight := rfl
@[simp] theorem setInterval_flight : (s.setInterval v).flight = s.flight := rfl
@[simp] theorem setInterval_placementsDue : (s.setInterval v).placementsDue = s.placementsDue := rfl
@[simp] theorem setInterval_fallbackPtr : (s.setInterval v).fallbackPtr = s.fallbackPtr := rfl
@[simp] theorem setInterval_records : (s.setInterval v).records = s.records := rfl
@[simp] theorem setInterval_openIntervals : (s.setInterval v).openIntervals = s.openIntervals := rfl
@[simp] theorem setInterval_register : (s.setInterval v).register = s.register := rfl
@[simp] theorem setInterval_deadlinesDue : (s.setInterval v).deadlinesDue = s.deadlinesDue := rfl
@[simp] theorem setInterval_closesDue : (s.setInterval v).closesDue = s.closesDue := rfl
@[simp] theorem setInterval_txQueue : (s.setInterval v).txQueue = s.txQueue := rfl
@[simp] theorem setInterval_rxBuffer : (s.setInterval v).rxBuffer = s.rxBuffer := rfl
@[simp] theorem setInterval_flags : (s.setInterval v).flags = s.flags := rfl
@[simp] theorem setInterval_agenda : (s.setInterval v).agenda = s.agenda := rfl
@[simp] theorem setInterval_freeCount : (s.setInterval v).freeCount = s.freeCount := rfl
@[simp] theorem setInterval_pending : (s.setInterval v).pending = s.pending := rfl
@[simp] theorem setInterval_ctx (i : Slot) : (s.setInterval v).ctx i = s.ctx i := rfl
@[simp] theorem setInterval_tagEntry (t : Tag) : (s.setInterval v).tagEntry t = s.tagEntry t := rfl
@[simp] theorem setInterval_slotOf (t : Tag) : (s.setInterval v).slotOf t = s.slotOf t := rfl
@[simp] theorem setInterval_own (b : Band) : (s.setInterval v).own b = s.own b := rfl
@[simp] theorem setInterval_neighbour (b : Band) : (s.setInterval v).neighbour b = s.neighbour b := rfl
@[simp] theorem setInterval_acting : (s.setInterval v).acting = s.acting := rfl

end Interval

section Synced
variable (s : State) (v : Bool)

@[simp] theorem setSynced_resetN : (s.setSynced v).resetN = s.resetN := rfl
@[simp] theorem setSynced_ownStation : (s.setSynced v).ownStation = s.ownStation := rfl
@[simp] theorem setSynced_profile : (s.setSynced v).profile = s.profile := rfl
@[simp] theorem setSynced_station : (s.setSynced v).station = s.station := rfl
@[simp] theorem setSynced_resume : (s.setSynced v).resume = s.resume := rfl
@[simp] theorem setSynced_listening : (s.setSynced v).listening = s.listening := rfl
@[simp] theorem setSynced_resetSeq : (s.setSynced v).resetSeq = s.resetSeq := rfl
@[simp] theorem setSynced_interval : (s.setSynced v).interval = s.interval := rfl
@[simp] theorem setSynced_synced : (s.setSynced v).synced = v := rfl
@[simp] theorem setSynced_contexts : (s.setSynced v).contexts = s.contexts := rfl
@[simp] theorem setSynced_tags : (s.setSynced v).tags = s.tags := rfl
@[simp] theorem setSynced_tagPtr : (s.setSynced v).tagPtr = s.tagPtr := rfl
@[simp] theorem setSynced_refreshPtr : (s.setSynced v).refreshPtr = s.refreshPtr := rfl
@[simp] theorem setSynced_claims : (s.setSynced v).claims = s.claims := rfl
@[simp] theorem setSynced_farDemand : (s.setSynced v).farDemand = s.farDemand := rfl
@[simp] theorem setSynced_spacing : (s.setSynced v).spacing = s.spacing := rfl
@[simp] theorem setSynced_neighbours : (s.setSynced v).neighbours = s.neighbours := rfl
@[simp] theorem setSynced_cause : (s.setSynced v).cause = s.cause := rfl
@[simp] theorem setSynced_inFlight : (s.setSynced v).inFlight = s.inFlight := rfl
@[simp] theorem setSynced_flight : (s.setSynced v).flight = s.flight := rfl
@[simp] theorem setSynced_placementsDue : (s.setSynced v).placementsDue = s.placementsDue := rfl
@[simp] theorem setSynced_fallbackPtr : (s.setSynced v).fallbackPtr = s.fallbackPtr := rfl
@[simp] theorem setSynced_records : (s.setSynced v).records = s.records := rfl
@[simp] theorem setSynced_openIntervals : (s.setSynced v).openIntervals = s.openIntervals := rfl
@[simp] theorem setSynced_register : (s.setSynced v).register = s.register := rfl
@[simp] theorem setSynced_deadlinesDue : (s.setSynced v).deadlinesDue = s.deadlinesDue := rfl
@[simp] theorem setSynced_closesDue : (s.setSynced v).closesDue = s.closesDue := rfl
@[simp] theorem setSynced_txQueue : (s.setSynced v).txQueue = s.txQueue := rfl
@[simp] theorem setSynced_rxBuffer : (s.setSynced v).rxBuffer = s.rxBuffer := rfl
@[simp] theorem setSynced_flags : (s.setSynced v).flags = s.flags := rfl
@[simp] theorem setSynced_agenda : (s.setSynced v).agenda = s.agenda := rfl
@[simp] theorem setSynced_freeCount : (s.setSynced v).freeCount = s.freeCount := rfl
@[simp] theorem setSynced_pending : (s.setSynced v).pending = s.pending := rfl
@[simp] theorem setSynced_ctx (i : Slot) : (s.setSynced v).ctx i = s.ctx i := rfl
@[simp] theorem setSynced_tagEntry (t : Tag) : (s.setSynced v).tagEntry t = s.tagEntry t := rfl
@[simp] theorem setSynced_slotOf (t : Tag) : (s.setSynced v).slotOf t = s.slotOf t := rfl
@[simp] theorem setSynced_own (b : Band) : (s.setSynced v).own b = s.own b := rfl
@[simp] theorem setSynced_neighbour (b : Band) : (s.setSynced v).neighbour b = s.neighbour b := rfl
@[simp] theorem setSynced_acting : (s.setSynced v).acting = s.acting := rfl

end Synced

section Contexts
variable (s : State) (v : Vector Context 96)

@[simp] theorem setContexts_resetN : (s.setContexts v).resetN = s.resetN := rfl
@[simp] theorem setContexts_ownStation : (s.setContexts v).ownStation = s.ownStation := rfl
@[simp] theorem setContexts_profile : (s.setContexts v).profile = s.profile := rfl
@[simp] theorem setContexts_station : (s.setContexts v).station = s.station := rfl
@[simp] theorem setContexts_resume : (s.setContexts v).resume = s.resume := rfl
@[simp] theorem setContexts_listening : (s.setContexts v).listening = s.listening := rfl
@[simp] theorem setContexts_resetSeq : (s.setContexts v).resetSeq = s.resetSeq := rfl
@[simp] theorem setContexts_interval : (s.setContexts v).interval = s.interval := rfl
@[simp] theorem setContexts_synced : (s.setContexts v).synced = s.synced := rfl
@[simp] theorem setContexts_contexts : (s.setContexts v).contexts = v := rfl
@[simp] theorem setContexts_tags : (s.setContexts v).tags = s.tags := rfl
@[simp] theorem setContexts_tagPtr : (s.setContexts v).tagPtr = s.tagPtr := rfl
@[simp] theorem setContexts_refreshPtr : (s.setContexts v).refreshPtr = s.refreshPtr := rfl
@[simp] theorem setContexts_claims : (s.setContexts v).claims = s.claims := rfl
@[simp] theorem setContexts_farDemand : (s.setContexts v).farDemand = s.farDemand := rfl
@[simp] theorem setContexts_spacing : (s.setContexts v).spacing = s.spacing := rfl
@[simp] theorem setContexts_neighbours : (s.setContexts v).neighbours = s.neighbours := rfl
@[simp] theorem setContexts_cause : (s.setContexts v).cause = s.cause := rfl
@[simp] theorem setContexts_inFlight : (s.setContexts v).inFlight = s.inFlight := rfl
@[simp] theorem setContexts_flight : (s.setContexts v).flight = s.flight := rfl
@[simp] theorem setContexts_placementsDue : (s.setContexts v).placementsDue = s.placementsDue := rfl
@[simp] theorem setContexts_fallbackPtr : (s.setContexts v).fallbackPtr = s.fallbackPtr := rfl
@[simp] theorem setContexts_records : (s.setContexts v).records = s.records := rfl
@[simp] theorem setContexts_openIntervals : (s.setContexts v).openIntervals = s.openIntervals := rfl
@[simp] theorem setContexts_register : (s.setContexts v).register = s.register := rfl
@[simp] theorem setContexts_deadlinesDue : (s.setContexts v).deadlinesDue = s.deadlinesDue := rfl
@[simp] theorem setContexts_closesDue : (s.setContexts v).closesDue = s.closesDue := rfl
@[simp] theorem setContexts_txQueue : (s.setContexts v).txQueue = s.txQueue := rfl
@[simp] theorem setContexts_rxBuffer : (s.setContexts v).rxBuffer = s.rxBuffer := rfl
@[simp] theorem setContexts_flags : (s.setContexts v).flags = s.flags := rfl
@[simp] theorem setContexts_agenda : (s.setContexts v).agenda = s.agenda := rfl
@[simp] theorem setContexts_freeCount : (s.setContexts v).freeCount = s.freeCount := rfl
@[simp] theorem setContexts_pending : (s.setContexts v).pending = s.pending := rfl
@[simp] theorem setContexts_ctx (i : Slot) : (s.setContexts v).ctx i = v[i] := rfl
@[simp] theorem setContexts_tagEntry (t : Tag) : (s.setContexts v).tagEntry t = s.tagEntry t := rfl
@[simp] theorem setContexts_slotOf (t : Tag) : (s.setContexts v).slotOf t = s.slotOf t := rfl
@[simp] theorem setContexts_own (b : Band) : (s.setContexts v).own b = s.own b := rfl
@[simp] theorem setContexts_neighbour (b : Band) : (s.setContexts v).neighbour b = s.neighbour b := rfl
@[simp] theorem setContexts_acting : (s.setContexts v).acting = s.acting := rfl

end Contexts

section Tags
variable (s : State) (v : Vector TagEntry 256)

@[simp] theorem setTags_resetN : (s.setTags v).resetN = s.resetN := rfl
@[simp] theorem setTags_ownStation : (s.setTags v).ownStation = s.ownStation := rfl
@[simp] theorem setTags_profile : (s.setTags v).profile = s.profile := rfl
@[simp] theorem setTags_station : (s.setTags v).station = s.station := rfl
@[simp] theorem setTags_resume : (s.setTags v).resume = s.resume := rfl
@[simp] theorem setTags_listening : (s.setTags v).listening = s.listening := rfl
@[simp] theorem setTags_resetSeq : (s.setTags v).resetSeq = s.resetSeq := rfl
@[simp] theorem setTags_interval : (s.setTags v).interval = s.interval := rfl
@[simp] theorem setTags_synced : (s.setTags v).synced = s.synced := rfl
@[simp] theorem setTags_contexts : (s.setTags v).contexts = s.contexts := rfl
@[simp] theorem setTags_tags : (s.setTags v).tags = v := rfl
@[simp] theorem setTags_tagPtr : (s.setTags v).tagPtr = s.tagPtr := rfl
@[simp] theorem setTags_refreshPtr : (s.setTags v).refreshPtr = s.refreshPtr := rfl
@[simp] theorem setTags_claims : (s.setTags v).claims = s.claims := rfl
@[simp] theorem setTags_farDemand : (s.setTags v).farDemand = s.farDemand := rfl
@[simp] theorem setTags_spacing : (s.setTags v).spacing = s.spacing := rfl
@[simp] theorem setTags_neighbours : (s.setTags v).neighbours = s.neighbours := rfl
@[simp] theorem setTags_cause : (s.setTags v).cause = s.cause := rfl
@[simp] theorem setTags_inFlight : (s.setTags v).inFlight = s.inFlight := rfl
@[simp] theorem setTags_flight : (s.setTags v).flight = s.flight := rfl
@[simp] theorem setTags_placementsDue : (s.setTags v).placementsDue = s.placementsDue := rfl
@[simp] theorem setTags_fallbackPtr : (s.setTags v).fallbackPtr = s.fallbackPtr := rfl
@[simp] theorem setTags_records : (s.setTags v).records = s.records := rfl
@[simp] theorem setTags_openIntervals : (s.setTags v).openIntervals = s.openIntervals := rfl
@[simp] theorem setTags_register : (s.setTags v).register = s.register := rfl
@[simp] theorem setTags_deadlinesDue : (s.setTags v).deadlinesDue = s.deadlinesDue := rfl
@[simp] theorem setTags_closesDue : (s.setTags v).closesDue = s.closesDue := rfl
@[simp] theorem setTags_txQueue : (s.setTags v).txQueue = s.txQueue := rfl
@[simp] theorem setTags_rxBuffer : (s.setTags v).rxBuffer = s.rxBuffer := rfl
@[simp] theorem setTags_flags : (s.setTags v).flags = s.flags := rfl
@[simp] theorem setTags_agenda : (s.setTags v).agenda = s.agenda := rfl
@[simp] theorem setTags_freeCount : (s.setTags v).freeCount = s.freeCount := rfl
@[simp] theorem setTags_pending : (s.setTags v).pending = s.pending := rfl
@[simp] theorem setTags_ctx (i : Slot) : (s.setTags v).ctx i = s.ctx i := rfl
@[simp] theorem setTags_tagEntry (t : Tag) : (s.setTags v).tagEntry t = v[t] := rfl
@[simp] theorem setTags_slotOf (t : Tag) : (s.setTags v).slotOf t = (v[t]).slot := rfl
@[simp] theorem setTags_own (b : Band) : (s.setTags v).own b = s.own b := rfl
@[simp] theorem setTags_neighbour (b : Band) : (s.setTags v).neighbour b = s.neighbour b := rfl
@[simp] theorem setTags_acting : (s.setTags v).acting = s.acting := rfl

end Tags

section TagPtr
variable (s : State) (v : Tag)

@[simp] theorem setTagPtr_resetN : (s.setTagPtr v).resetN = s.resetN := rfl
@[simp] theorem setTagPtr_ownStation : (s.setTagPtr v).ownStation = s.ownStation := rfl
@[simp] theorem setTagPtr_profile : (s.setTagPtr v).profile = s.profile := rfl
@[simp] theorem setTagPtr_station : (s.setTagPtr v).station = s.station := rfl
@[simp] theorem setTagPtr_resume : (s.setTagPtr v).resume = s.resume := rfl
@[simp] theorem setTagPtr_listening : (s.setTagPtr v).listening = s.listening := rfl
@[simp] theorem setTagPtr_resetSeq : (s.setTagPtr v).resetSeq = s.resetSeq := rfl
@[simp] theorem setTagPtr_interval : (s.setTagPtr v).interval = s.interval := rfl
@[simp] theorem setTagPtr_synced : (s.setTagPtr v).synced = s.synced := rfl
@[simp] theorem setTagPtr_contexts : (s.setTagPtr v).contexts = s.contexts := rfl
@[simp] theorem setTagPtr_tags : (s.setTagPtr v).tags = s.tags := rfl
@[simp] theorem setTagPtr_tagPtr : (s.setTagPtr v).tagPtr = v := rfl
@[simp] theorem setTagPtr_refreshPtr : (s.setTagPtr v).refreshPtr = s.refreshPtr := rfl
@[simp] theorem setTagPtr_claims : (s.setTagPtr v).claims = s.claims := rfl
@[simp] theorem setTagPtr_farDemand : (s.setTagPtr v).farDemand = s.farDemand := rfl
@[simp] theorem setTagPtr_spacing : (s.setTagPtr v).spacing = s.spacing := rfl
@[simp] theorem setTagPtr_neighbours : (s.setTagPtr v).neighbours = s.neighbours := rfl
@[simp] theorem setTagPtr_cause : (s.setTagPtr v).cause = s.cause := rfl
@[simp] theorem setTagPtr_inFlight : (s.setTagPtr v).inFlight = s.inFlight := rfl
@[simp] theorem setTagPtr_flight : (s.setTagPtr v).flight = s.flight := rfl
@[simp] theorem setTagPtr_placementsDue : (s.setTagPtr v).placementsDue = s.placementsDue := rfl
@[simp] theorem setTagPtr_fallbackPtr : (s.setTagPtr v).fallbackPtr = s.fallbackPtr := rfl
@[simp] theorem setTagPtr_records : (s.setTagPtr v).records = s.records := rfl
@[simp] theorem setTagPtr_openIntervals : (s.setTagPtr v).openIntervals = s.openIntervals := rfl
@[simp] theorem setTagPtr_register : (s.setTagPtr v).register = s.register := rfl
@[simp] theorem setTagPtr_deadlinesDue : (s.setTagPtr v).deadlinesDue = s.deadlinesDue := rfl
@[simp] theorem setTagPtr_closesDue : (s.setTagPtr v).closesDue = s.closesDue := rfl
@[simp] theorem setTagPtr_txQueue : (s.setTagPtr v).txQueue = s.txQueue := rfl
@[simp] theorem setTagPtr_rxBuffer : (s.setTagPtr v).rxBuffer = s.rxBuffer := rfl
@[simp] theorem setTagPtr_flags : (s.setTagPtr v).flags = s.flags := rfl
@[simp] theorem setTagPtr_agenda : (s.setTagPtr v).agenda = s.agenda := rfl
@[simp] theorem setTagPtr_freeCount : (s.setTagPtr v).freeCount = s.freeCount := rfl
@[simp] theorem setTagPtr_pending : (s.setTagPtr v).pending = s.pending := rfl
@[simp] theorem setTagPtr_ctx (i : Slot) : (s.setTagPtr v).ctx i = s.ctx i := rfl
@[simp] theorem setTagPtr_tagEntry (t : Tag) : (s.setTagPtr v).tagEntry t = s.tagEntry t := rfl
@[simp] theorem setTagPtr_slotOf (t : Tag) : (s.setTagPtr v).slotOf t = s.slotOf t := rfl
@[simp] theorem setTagPtr_own (b : Band) : (s.setTagPtr v).own b = s.own b := rfl
@[simp] theorem setTagPtr_neighbour (b : Band) : (s.setTagPtr v).neighbour b = s.neighbour b := rfl
@[simp] theorem setTagPtr_acting : (s.setTagPtr v).acting = s.acting := rfl

end TagPtr

section RefreshPtr
variable (s : State) (v : Slot)

@[simp] theorem setRefreshPtr_resetN : (s.setRefreshPtr v).resetN = s.resetN := rfl
@[simp] theorem setRefreshPtr_ownStation : (s.setRefreshPtr v).ownStation = s.ownStation := rfl
@[simp] theorem setRefreshPtr_profile : (s.setRefreshPtr v).profile = s.profile := rfl
@[simp] theorem setRefreshPtr_station : (s.setRefreshPtr v).station = s.station := rfl
@[simp] theorem setRefreshPtr_resume : (s.setRefreshPtr v).resume = s.resume := rfl
@[simp] theorem setRefreshPtr_listening : (s.setRefreshPtr v).listening = s.listening := rfl
@[simp] theorem setRefreshPtr_resetSeq : (s.setRefreshPtr v).resetSeq = s.resetSeq := rfl
@[simp] theorem setRefreshPtr_interval : (s.setRefreshPtr v).interval = s.interval := rfl
@[simp] theorem setRefreshPtr_synced : (s.setRefreshPtr v).synced = s.synced := rfl
@[simp] theorem setRefreshPtr_contexts : (s.setRefreshPtr v).contexts = s.contexts := rfl
@[simp] theorem setRefreshPtr_tags : (s.setRefreshPtr v).tags = s.tags := rfl
@[simp] theorem setRefreshPtr_tagPtr : (s.setRefreshPtr v).tagPtr = s.tagPtr := rfl
@[simp] theorem setRefreshPtr_refreshPtr : (s.setRefreshPtr v).refreshPtr = v := rfl
@[simp] theorem setRefreshPtr_claims : (s.setRefreshPtr v).claims = s.claims := rfl
@[simp] theorem setRefreshPtr_farDemand : (s.setRefreshPtr v).farDemand = s.farDemand := rfl
@[simp] theorem setRefreshPtr_spacing : (s.setRefreshPtr v).spacing = s.spacing := rfl
@[simp] theorem setRefreshPtr_neighbours : (s.setRefreshPtr v).neighbours = s.neighbours := rfl
@[simp] theorem setRefreshPtr_cause : (s.setRefreshPtr v).cause = s.cause := rfl
@[simp] theorem setRefreshPtr_inFlight : (s.setRefreshPtr v).inFlight = s.inFlight := rfl
@[simp] theorem setRefreshPtr_flight : (s.setRefreshPtr v).flight = s.flight := rfl
@[simp] theorem setRefreshPtr_placementsDue : (s.setRefreshPtr v).placementsDue = s.placementsDue := rfl
@[simp] theorem setRefreshPtr_fallbackPtr : (s.setRefreshPtr v).fallbackPtr = s.fallbackPtr := rfl
@[simp] theorem setRefreshPtr_records : (s.setRefreshPtr v).records = s.records := rfl
@[simp] theorem setRefreshPtr_openIntervals : (s.setRefreshPtr v).openIntervals = s.openIntervals := rfl
@[simp] theorem setRefreshPtr_register : (s.setRefreshPtr v).register = s.register := rfl
@[simp] theorem setRefreshPtr_deadlinesDue : (s.setRefreshPtr v).deadlinesDue = s.deadlinesDue := rfl
@[simp] theorem setRefreshPtr_closesDue : (s.setRefreshPtr v).closesDue = s.closesDue := rfl
@[simp] theorem setRefreshPtr_txQueue : (s.setRefreshPtr v).txQueue = s.txQueue := rfl
@[simp] theorem setRefreshPtr_rxBuffer : (s.setRefreshPtr v).rxBuffer = s.rxBuffer := rfl
@[simp] theorem setRefreshPtr_flags : (s.setRefreshPtr v).flags = s.flags := rfl
@[simp] theorem setRefreshPtr_agenda : (s.setRefreshPtr v).agenda = s.agenda := rfl
@[simp] theorem setRefreshPtr_freeCount : (s.setRefreshPtr v).freeCount = s.freeCount := rfl
@[simp] theorem setRefreshPtr_pending : (s.setRefreshPtr v).pending = s.pending := rfl
@[simp] theorem setRefreshPtr_ctx (i : Slot) : (s.setRefreshPtr v).ctx i = s.ctx i := rfl
@[simp] theorem setRefreshPtr_tagEntry (t : Tag) : (s.setRefreshPtr v).tagEntry t = s.tagEntry t := rfl
@[simp] theorem setRefreshPtr_slotOf (t : Tag) : (s.setRefreshPtr v).slotOf t = s.slotOf t := rfl
@[simp] theorem setRefreshPtr_own (b : Band) : (s.setRefreshPtr v).own b = s.own b := rfl
@[simp] theorem setRefreshPtr_neighbour (b : Band) : (s.setRefreshPtr v).neighbour b = s.neighbour b := rfl
@[simp] theorem setRefreshPtr_acting : (s.setRefreshPtr v).acting = s.acting := rfl

end RefreshPtr

section Claims
variable (s : State) (v : Vector OwnClaim 6)

@[simp] theorem setClaims_resetN : (s.setClaims v).resetN = s.resetN := rfl
@[simp] theorem setClaims_ownStation : (s.setClaims v).ownStation = s.ownStation := rfl
@[simp] theorem setClaims_profile : (s.setClaims v).profile = s.profile := rfl
@[simp] theorem setClaims_station : (s.setClaims v).station = s.station := rfl
@[simp] theorem setClaims_resume : (s.setClaims v).resume = s.resume := rfl
@[simp] theorem setClaims_listening : (s.setClaims v).listening = s.listening := rfl
@[simp] theorem setClaims_resetSeq : (s.setClaims v).resetSeq = s.resetSeq := rfl
@[simp] theorem setClaims_interval : (s.setClaims v).interval = s.interval := rfl
@[simp] theorem setClaims_synced : (s.setClaims v).synced = s.synced := rfl
@[simp] theorem setClaims_contexts : (s.setClaims v).contexts = s.contexts := rfl
@[simp] theorem setClaims_tags : (s.setClaims v).tags = s.tags := rfl
@[simp] theorem setClaims_tagPtr : (s.setClaims v).tagPtr = s.tagPtr := rfl
@[simp] theorem setClaims_refreshPtr : (s.setClaims v).refreshPtr = s.refreshPtr := rfl
@[simp] theorem setClaims_claims : (s.setClaims v).claims = v := rfl
@[simp] theorem setClaims_farDemand : (s.setClaims v).farDemand = s.farDemand := rfl
@[simp] theorem setClaims_spacing : (s.setClaims v).spacing = s.spacing := rfl
@[simp] theorem setClaims_neighbours : (s.setClaims v).neighbours = s.neighbours := rfl
@[simp] theorem setClaims_cause : (s.setClaims v).cause = s.cause := rfl
@[simp] theorem setClaims_inFlight : (s.setClaims v).inFlight = s.inFlight := rfl
@[simp] theorem setClaims_flight : (s.setClaims v).flight = s.flight := rfl
@[simp] theorem setClaims_placementsDue : (s.setClaims v).placementsDue = s.placementsDue := rfl
@[simp] theorem setClaims_fallbackPtr : (s.setClaims v).fallbackPtr = s.fallbackPtr := rfl
@[simp] theorem setClaims_records : (s.setClaims v).records = s.records := rfl
@[simp] theorem setClaims_openIntervals : (s.setClaims v).openIntervals = s.openIntervals := rfl
@[simp] theorem setClaims_register : (s.setClaims v).register = s.register := rfl
@[simp] theorem setClaims_deadlinesDue : (s.setClaims v).deadlinesDue = s.deadlinesDue := rfl
@[simp] theorem setClaims_closesDue : (s.setClaims v).closesDue = s.closesDue := rfl
@[simp] theorem setClaims_txQueue : (s.setClaims v).txQueue = s.txQueue := rfl
@[simp] theorem setClaims_rxBuffer : (s.setClaims v).rxBuffer = s.rxBuffer := rfl
@[simp] theorem setClaims_flags : (s.setClaims v).flags = s.flags := rfl
@[simp] theorem setClaims_agenda : (s.setClaims v).agenda = s.agenda := rfl
@[simp] theorem setClaims_freeCount : (s.setClaims v).freeCount = s.freeCount := rfl
@[simp] theorem setClaims_pending : (s.setClaims v).pending = s.pending := rfl
@[simp] theorem setClaims_ctx (i : Slot) : (s.setClaims v).ctx i = s.ctx i := rfl
@[simp] theorem setClaims_tagEntry (t : Tag) : (s.setClaims v).tagEntry t = s.tagEntry t := rfl
@[simp] theorem setClaims_slotOf (t : Tag) : (s.setClaims v).slotOf t = s.slotOf t := rfl
@[simp] theorem setClaims_own (b : Band) : (s.setClaims v).own b = v[b] := rfl
@[simp] theorem setClaims_neighbour (b : Band) : (s.setClaims v).neighbour b = s.neighbour b := rfl
@[simp] theorem setClaims_acting : (s.setClaims v).acting = s.acting := rfl

end Claims

section FarDemand
variable (s : State) (v : Nat)

@[simp] theorem setFarDemand_resetN : (s.setFarDemand v).resetN = s.resetN := rfl
@[simp] theorem setFarDemand_ownStation : (s.setFarDemand v).ownStation = s.ownStation := rfl
@[simp] theorem setFarDemand_profile : (s.setFarDemand v).profile = s.profile := rfl
@[simp] theorem setFarDemand_station : (s.setFarDemand v).station = s.station := rfl
@[simp] theorem setFarDemand_resume : (s.setFarDemand v).resume = s.resume := rfl
@[simp] theorem setFarDemand_listening : (s.setFarDemand v).listening = s.listening := rfl
@[simp] theorem setFarDemand_resetSeq : (s.setFarDemand v).resetSeq = s.resetSeq := rfl
@[simp] theorem setFarDemand_interval : (s.setFarDemand v).interval = s.interval := rfl
@[simp] theorem setFarDemand_synced : (s.setFarDemand v).synced = s.synced := rfl
@[simp] theorem setFarDemand_contexts : (s.setFarDemand v).contexts = s.contexts := rfl
@[simp] theorem setFarDemand_tags : (s.setFarDemand v).tags = s.tags := rfl
@[simp] theorem setFarDemand_tagPtr : (s.setFarDemand v).tagPtr = s.tagPtr := rfl
@[simp] theorem setFarDemand_refreshPtr : (s.setFarDemand v).refreshPtr = s.refreshPtr := rfl
@[simp] theorem setFarDemand_claims : (s.setFarDemand v).claims = s.claims := rfl
@[simp] theorem setFarDemand_farDemand : (s.setFarDemand v).farDemand = v := rfl
@[simp] theorem setFarDemand_spacing : (s.setFarDemand v).spacing = s.spacing := rfl
@[simp] theorem setFarDemand_neighbours : (s.setFarDemand v).neighbours = s.neighbours := rfl
@[simp] theorem setFarDemand_cause : (s.setFarDemand v).cause = s.cause := rfl
@[simp] theorem setFarDemand_inFlight : (s.setFarDemand v).inFlight = s.inFlight := rfl
@[simp] theorem setFarDemand_flight : (s.setFarDemand v).flight = s.flight := rfl
@[simp] theorem setFarDemand_placementsDue : (s.setFarDemand v).placementsDue = s.placementsDue := rfl
@[simp] theorem setFarDemand_fallbackPtr : (s.setFarDemand v).fallbackPtr = s.fallbackPtr := rfl
@[simp] theorem setFarDemand_records : (s.setFarDemand v).records = s.records := rfl
@[simp] theorem setFarDemand_openIntervals : (s.setFarDemand v).openIntervals = s.openIntervals := rfl
@[simp] theorem setFarDemand_register : (s.setFarDemand v).register = s.register := rfl
@[simp] theorem setFarDemand_deadlinesDue : (s.setFarDemand v).deadlinesDue = s.deadlinesDue := rfl
@[simp] theorem setFarDemand_closesDue : (s.setFarDemand v).closesDue = s.closesDue := rfl
@[simp] theorem setFarDemand_txQueue : (s.setFarDemand v).txQueue = s.txQueue := rfl
@[simp] theorem setFarDemand_rxBuffer : (s.setFarDemand v).rxBuffer = s.rxBuffer := rfl
@[simp] theorem setFarDemand_flags : (s.setFarDemand v).flags = s.flags := rfl
@[simp] theorem setFarDemand_agenda : (s.setFarDemand v).agenda = s.agenda := rfl
@[simp] theorem setFarDemand_freeCount : (s.setFarDemand v).freeCount = s.freeCount := rfl
@[simp] theorem setFarDemand_pending : (s.setFarDemand v).pending = s.pending := rfl
@[simp] theorem setFarDemand_ctx (i : Slot) : (s.setFarDemand v).ctx i = s.ctx i := rfl
@[simp] theorem setFarDemand_tagEntry (t : Tag) : (s.setFarDemand v).tagEntry t = s.tagEntry t := rfl
@[simp] theorem setFarDemand_slotOf (t : Tag) : (s.setFarDemand v).slotOf t = s.slotOf t := rfl
@[simp] theorem setFarDemand_own (b : Band) : (s.setFarDemand v).own b = s.own b := rfl
@[simp] theorem setFarDemand_neighbour (b : Band) : (s.setFarDemand v).neighbour b = s.neighbour b := rfl
@[simp] theorem setFarDemand_acting : (s.setFarDemand v).acting = s.acting := rfl

end FarDemand

section Spacing
variable (s : State) (v : Nat)

@[simp] theorem setSpacing_resetN : (s.setSpacing v).resetN = s.resetN := rfl
@[simp] theorem setSpacing_ownStation : (s.setSpacing v).ownStation = s.ownStation := rfl
@[simp] theorem setSpacing_profile : (s.setSpacing v).profile = s.profile := rfl
@[simp] theorem setSpacing_station : (s.setSpacing v).station = s.station := rfl
@[simp] theorem setSpacing_resume : (s.setSpacing v).resume = s.resume := rfl
@[simp] theorem setSpacing_listening : (s.setSpacing v).listening = s.listening := rfl
@[simp] theorem setSpacing_resetSeq : (s.setSpacing v).resetSeq = s.resetSeq := rfl
@[simp] theorem setSpacing_interval : (s.setSpacing v).interval = s.interval := rfl
@[simp] theorem setSpacing_synced : (s.setSpacing v).synced = s.synced := rfl
@[simp] theorem setSpacing_contexts : (s.setSpacing v).contexts = s.contexts := rfl
@[simp] theorem setSpacing_tags : (s.setSpacing v).tags = s.tags := rfl
@[simp] theorem setSpacing_tagPtr : (s.setSpacing v).tagPtr = s.tagPtr := rfl
@[simp] theorem setSpacing_refreshPtr : (s.setSpacing v).refreshPtr = s.refreshPtr := rfl
@[simp] theorem setSpacing_claims : (s.setSpacing v).claims = s.claims := rfl
@[simp] theorem setSpacing_farDemand : (s.setSpacing v).farDemand = s.farDemand := rfl
@[simp] theorem setSpacing_spacing : (s.setSpacing v).spacing = v := rfl
@[simp] theorem setSpacing_neighbours : (s.setSpacing v).neighbours = s.neighbours := rfl
@[simp] theorem setSpacing_cause : (s.setSpacing v).cause = s.cause := rfl
@[simp] theorem setSpacing_inFlight : (s.setSpacing v).inFlight = s.inFlight := rfl
@[simp] theorem setSpacing_flight : (s.setSpacing v).flight = s.flight := rfl
@[simp] theorem setSpacing_placementsDue : (s.setSpacing v).placementsDue = s.placementsDue := rfl
@[simp] theorem setSpacing_fallbackPtr : (s.setSpacing v).fallbackPtr = s.fallbackPtr := rfl
@[simp] theorem setSpacing_records : (s.setSpacing v).records = s.records := rfl
@[simp] theorem setSpacing_openIntervals : (s.setSpacing v).openIntervals = s.openIntervals := rfl
@[simp] theorem setSpacing_register : (s.setSpacing v).register = s.register := rfl
@[simp] theorem setSpacing_deadlinesDue : (s.setSpacing v).deadlinesDue = s.deadlinesDue := rfl
@[simp] theorem setSpacing_closesDue : (s.setSpacing v).closesDue = s.closesDue := rfl
@[simp] theorem setSpacing_txQueue : (s.setSpacing v).txQueue = s.txQueue := rfl
@[simp] theorem setSpacing_rxBuffer : (s.setSpacing v).rxBuffer = s.rxBuffer := rfl
@[simp] theorem setSpacing_flags : (s.setSpacing v).flags = s.flags := rfl
@[simp] theorem setSpacing_agenda : (s.setSpacing v).agenda = s.agenda := rfl
@[simp] theorem setSpacing_freeCount : (s.setSpacing v).freeCount = s.freeCount := rfl
@[simp] theorem setSpacing_pending : (s.setSpacing v).pending = s.pending := rfl
@[simp] theorem setSpacing_ctx (i : Slot) : (s.setSpacing v).ctx i = s.ctx i := rfl
@[simp] theorem setSpacing_tagEntry (t : Tag) : (s.setSpacing v).tagEntry t = s.tagEntry t := rfl
@[simp] theorem setSpacing_slotOf (t : Tag) : (s.setSpacing v).slotOf t = s.slotOf t := rfl
@[simp] theorem setSpacing_own (b : Band) : (s.setSpacing v).own b = s.own b := rfl
@[simp] theorem setSpacing_neighbour (b : Band) : (s.setSpacing v).neighbour b = s.neighbour b := rfl
@[simp] theorem setSpacing_acting : (s.setSpacing v).acting = s.acting := rfl

end Spacing

section Neighbours
variable (s : State) (v : Vector (Option PeerEntry) 6)

@[simp] theorem setNeighbours_resetN : (s.setNeighbours v).resetN = s.resetN := rfl
@[simp] theorem setNeighbours_ownStation : (s.setNeighbours v).ownStation = s.ownStation := rfl
@[simp] theorem setNeighbours_profile : (s.setNeighbours v).profile = s.profile := rfl
@[simp] theorem setNeighbours_station : (s.setNeighbours v).station = s.station := rfl
@[simp] theorem setNeighbours_resume : (s.setNeighbours v).resume = s.resume := rfl
@[simp] theorem setNeighbours_listening : (s.setNeighbours v).listening = s.listening := rfl
@[simp] theorem setNeighbours_resetSeq : (s.setNeighbours v).resetSeq = s.resetSeq := rfl
@[simp] theorem setNeighbours_interval : (s.setNeighbours v).interval = s.interval := rfl
@[simp] theorem setNeighbours_synced : (s.setNeighbours v).synced = s.synced := rfl
@[simp] theorem setNeighbours_contexts : (s.setNeighbours v).contexts = s.contexts := rfl
@[simp] theorem setNeighbours_tags : (s.setNeighbours v).tags = s.tags := rfl
@[simp] theorem setNeighbours_tagPtr : (s.setNeighbours v).tagPtr = s.tagPtr := rfl
@[simp] theorem setNeighbours_refreshPtr : (s.setNeighbours v).refreshPtr = s.refreshPtr := rfl
@[simp] theorem setNeighbours_claims : (s.setNeighbours v).claims = s.claims := rfl
@[simp] theorem setNeighbours_farDemand : (s.setNeighbours v).farDemand = s.farDemand := rfl
@[simp] theorem setNeighbours_spacing : (s.setNeighbours v).spacing = s.spacing := rfl
@[simp] theorem setNeighbours_neighbours : (s.setNeighbours v).neighbours = v := rfl
@[simp] theorem setNeighbours_cause : (s.setNeighbours v).cause = s.cause := rfl
@[simp] theorem setNeighbours_inFlight : (s.setNeighbours v).inFlight = s.inFlight := rfl
@[simp] theorem setNeighbours_flight : (s.setNeighbours v).flight = s.flight := rfl
@[simp] theorem setNeighbours_placementsDue : (s.setNeighbours v).placementsDue = s.placementsDue := rfl
@[simp] theorem setNeighbours_fallbackPtr : (s.setNeighbours v).fallbackPtr = s.fallbackPtr := rfl
@[simp] theorem setNeighbours_records : (s.setNeighbours v).records = s.records := rfl
@[simp] theorem setNeighbours_openIntervals : (s.setNeighbours v).openIntervals = s.openIntervals := rfl
@[simp] theorem setNeighbours_register : (s.setNeighbours v).register = s.register := rfl
@[simp] theorem setNeighbours_deadlinesDue : (s.setNeighbours v).deadlinesDue = s.deadlinesDue := rfl
@[simp] theorem setNeighbours_closesDue : (s.setNeighbours v).closesDue = s.closesDue := rfl
@[simp] theorem setNeighbours_txQueue : (s.setNeighbours v).txQueue = s.txQueue := rfl
@[simp] theorem setNeighbours_rxBuffer : (s.setNeighbours v).rxBuffer = s.rxBuffer := rfl
@[simp] theorem setNeighbours_flags : (s.setNeighbours v).flags = s.flags := rfl
@[simp] theorem setNeighbours_agenda : (s.setNeighbours v).agenda = s.agenda := rfl
@[simp] theorem setNeighbours_freeCount : (s.setNeighbours v).freeCount = s.freeCount := rfl
@[simp] theorem setNeighbours_pending : (s.setNeighbours v).pending = s.pending := rfl
@[simp] theorem setNeighbours_ctx (i : Slot) : (s.setNeighbours v).ctx i = s.ctx i := rfl
@[simp] theorem setNeighbours_tagEntry (t : Tag) : (s.setNeighbours v).tagEntry t = s.tagEntry t := rfl
@[simp] theorem setNeighbours_slotOf (t : Tag) : (s.setNeighbours v).slotOf t = s.slotOf t := rfl
@[simp] theorem setNeighbours_own (b : Band) : (s.setNeighbours v).own b = s.own b := rfl
@[simp] theorem setNeighbours_neighbour (b : Band) : (s.setNeighbours v).neighbour b = v[b] := rfl
@[simp] theorem setNeighbours_acting : (s.setNeighbours v).acting = s.acting := rfl

end Neighbours

section Cause
variable (s : State) (v : BitVec 4)

@[simp] theorem setCause_resetN : (s.setCause v).resetN = s.resetN := rfl
@[simp] theorem setCause_ownStation : (s.setCause v).ownStation = s.ownStation := rfl
@[simp] theorem setCause_profile : (s.setCause v).profile = s.profile := rfl
@[simp] theorem setCause_station : (s.setCause v).station = s.station := rfl
@[simp] theorem setCause_resume : (s.setCause v).resume = s.resume := rfl
@[simp] theorem setCause_listening : (s.setCause v).listening = s.listening := rfl
@[simp] theorem setCause_resetSeq : (s.setCause v).resetSeq = s.resetSeq := rfl
@[simp] theorem setCause_interval : (s.setCause v).interval = s.interval := rfl
@[simp] theorem setCause_synced : (s.setCause v).synced = s.synced := rfl
@[simp] theorem setCause_contexts : (s.setCause v).contexts = s.contexts := rfl
@[simp] theorem setCause_tags : (s.setCause v).tags = s.tags := rfl
@[simp] theorem setCause_tagPtr : (s.setCause v).tagPtr = s.tagPtr := rfl
@[simp] theorem setCause_refreshPtr : (s.setCause v).refreshPtr = s.refreshPtr := rfl
@[simp] theorem setCause_claims : (s.setCause v).claims = s.claims := rfl
@[simp] theorem setCause_farDemand : (s.setCause v).farDemand = s.farDemand := rfl
@[simp] theorem setCause_spacing : (s.setCause v).spacing = s.spacing := rfl
@[simp] theorem setCause_neighbours : (s.setCause v).neighbours = s.neighbours := rfl
@[simp] theorem setCause_cause : (s.setCause v).cause = v := rfl
@[simp] theorem setCause_inFlight : (s.setCause v).inFlight = s.inFlight := rfl
@[simp] theorem setCause_flight : (s.setCause v).flight = s.flight := rfl
@[simp] theorem setCause_placementsDue : (s.setCause v).placementsDue = s.placementsDue := rfl
@[simp] theorem setCause_fallbackPtr : (s.setCause v).fallbackPtr = s.fallbackPtr := rfl
@[simp] theorem setCause_records : (s.setCause v).records = s.records := rfl
@[simp] theorem setCause_openIntervals : (s.setCause v).openIntervals = s.openIntervals := rfl
@[simp] theorem setCause_register : (s.setCause v).register = s.register := rfl
@[simp] theorem setCause_deadlinesDue : (s.setCause v).deadlinesDue = s.deadlinesDue := rfl
@[simp] theorem setCause_closesDue : (s.setCause v).closesDue = s.closesDue := rfl
@[simp] theorem setCause_txQueue : (s.setCause v).txQueue = s.txQueue := rfl
@[simp] theorem setCause_rxBuffer : (s.setCause v).rxBuffer = s.rxBuffer := rfl
@[simp] theorem setCause_flags : (s.setCause v).flags = s.flags := rfl
@[simp] theorem setCause_agenda : (s.setCause v).agenda = s.agenda := rfl
@[simp] theorem setCause_freeCount : (s.setCause v).freeCount = s.freeCount := rfl
@[simp] theorem setCause_pending : (s.setCause v).pending = s.pending := rfl
@[simp] theorem setCause_ctx (i : Slot) : (s.setCause v).ctx i = s.ctx i := rfl
@[simp] theorem setCause_tagEntry (t : Tag) : (s.setCause v).tagEntry t = s.tagEntry t := rfl
@[simp] theorem setCause_slotOf (t : Tag) : (s.setCause v).slotOf t = s.slotOf t := rfl
@[simp] theorem setCause_own (b : Band) : (s.setCause v).own b = s.own b := rfl
@[simp] theorem setCause_neighbour (b : Band) : (s.setCause v).neighbour b = s.neighbour b := rfl
@[simp] theorem setCause_acting : (s.setCause v).acting = s.acting := rfl

end Cause

section InFlight
variable (s : State) (v : BitVec 4)

@[simp] theorem setInFlight_resetN : (s.setInFlight v).resetN = s.resetN := rfl
@[simp] theorem setInFlight_ownStation : (s.setInFlight v).ownStation = s.ownStation := rfl
@[simp] theorem setInFlight_profile : (s.setInFlight v).profile = s.profile := rfl
@[simp] theorem setInFlight_station : (s.setInFlight v).station = s.station := rfl
@[simp] theorem setInFlight_resume : (s.setInFlight v).resume = s.resume := rfl
@[simp] theorem setInFlight_listening : (s.setInFlight v).listening = s.listening := rfl
@[simp] theorem setInFlight_resetSeq : (s.setInFlight v).resetSeq = s.resetSeq := rfl
@[simp] theorem setInFlight_interval : (s.setInFlight v).interval = s.interval := rfl
@[simp] theorem setInFlight_synced : (s.setInFlight v).synced = s.synced := rfl
@[simp] theorem setInFlight_contexts : (s.setInFlight v).contexts = s.contexts := rfl
@[simp] theorem setInFlight_tags : (s.setInFlight v).tags = s.tags := rfl
@[simp] theorem setInFlight_tagPtr : (s.setInFlight v).tagPtr = s.tagPtr := rfl
@[simp] theorem setInFlight_refreshPtr : (s.setInFlight v).refreshPtr = s.refreshPtr := rfl
@[simp] theorem setInFlight_claims : (s.setInFlight v).claims = s.claims := rfl
@[simp] theorem setInFlight_farDemand : (s.setInFlight v).farDemand = s.farDemand := rfl
@[simp] theorem setInFlight_spacing : (s.setInFlight v).spacing = s.spacing := rfl
@[simp] theorem setInFlight_neighbours : (s.setInFlight v).neighbours = s.neighbours := rfl
@[simp] theorem setInFlight_cause : (s.setInFlight v).cause = s.cause := rfl
@[simp] theorem setInFlight_inFlight : (s.setInFlight v).inFlight = v := rfl
@[simp] theorem setInFlight_flight : (s.setInFlight v).flight = s.flight := rfl
@[simp] theorem setInFlight_placementsDue : (s.setInFlight v).placementsDue = s.placementsDue := rfl
@[simp] theorem setInFlight_fallbackPtr : (s.setInFlight v).fallbackPtr = s.fallbackPtr := rfl
@[simp] theorem setInFlight_records : (s.setInFlight v).records = s.records := rfl
@[simp] theorem setInFlight_openIntervals : (s.setInFlight v).openIntervals = s.openIntervals := rfl
@[simp] theorem setInFlight_register : (s.setInFlight v).register = s.register := rfl
@[simp] theorem setInFlight_deadlinesDue : (s.setInFlight v).deadlinesDue = s.deadlinesDue := rfl
@[simp] theorem setInFlight_closesDue : (s.setInFlight v).closesDue = s.closesDue := rfl
@[simp] theorem setInFlight_txQueue : (s.setInFlight v).txQueue = s.txQueue := rfl
@[simp] theorem setInFlight_rxBuffer : (s.setInFlight v).rxBuffer = s.rxBuffer := rfl
@[simp] theorem setInFlight_flags : (s.setInFlight v).flags = s.flags := rfl
@[simp] theorem setInFlight_agenda : (s.setInFlight v).agenda = s.agenda := rfl
@[simp] theorem setInFlight_freeCount : (s.setInFlight v).freeCount = s.freeCount := rfl
@[simp] theorem setInFlight_pending : (s.setInFlight v).pending = s.pending := rfl
@[simp] theorem setInFlight_ctx (i : Slot) : (s.setInFlight v).ctx i = s.ctx i := rfl
@[simp] theorem setInFlight_tagEntry (t : Tag) : (s.setInFlight v).tagEntry t = s.tagEntry t := rfl
@[simp] theorem setInFlight_slotOf (t : Tag) : (s.setInFlight v).slotOf t = s.slotOf t := rfl
@[simp] theorem setInFlight_own (b : Band) : (s.setInFlight v).own b = s.own b := rfl
@[simp] theorem setInFlight_neighbour (b : Band) : (s.setInFlight v).neighbour b = s.neighbour b := rfl
@[simp] theorem setInFlight_acting : (s.setInFlight v).acting = s.acting := rfl

end InFlight

section Flight
variable (s : State) (v : Option Flight)

@[simp] theorem setFlight_resetN : (s.setFlight v).resetN = s.resetN := rfl
@[simp] theorem setFlight_ownStation : (s.setFlight v).ownStation = s.ownStation := rfl
@[simp] theorem setFlight_profile : (s.setFlight v).profile = s.profile := rfl
@[simp] theorem setFlight_station : (s.setFlight v).station = s.station := rfl
@[simp] theorem setFlight_resume : (s.setFlight v).resume = s.resume := rfl
@[simp] theorem setFlight_listening : (s.setFlight v).listening = s.listening := rfl
@[simp] theorem setFlight_resetSeq : (s.setFlight v).resetSeq = s.resetSeq := rfl
@[simp] theorem setFlight_interval : (s.setFlight v).interval = s.interval := rfl
@[simp] theorem setFlight_synced : (s.setFlight v).synced = s.synced := rfl
@[simp] theorem setFlight_contexts : (s.setFlight v).contexts = s.contexts := rfl
@[simp] theorem setFlight_tags : (s.setFlight v).tags = s.tags := rfl
@[simp] theorem setFlight_tagPtr : (s.setFlight v).tagPtr = s.tagPtr := rfl
@[simp] theorem setFlight_refreshPtr : (s.setFlight v).refreshPtr = s.refreshPtr := rfl
@[simp] theorem setFlight_claims : (s.setFlight v).claims = s.claims := rfl
@[simp] theorem setFlight_farDemand : (s.setFlight v).farDemand = s.farDemand := rfl
@[simp] theorem setFlight_spacing : (s.setFlight v).spacing = s.spacing := rfl
@[simp] theorem setFlight_neighbours : (s.setFlight v).neighbours = s.neighbours := rfl
@[simp] theorem setFlight_cause : (s.setFlight v).cause = s.cause := rfl
@[simp] theorem setFlight_inFlight : (s.setFlight v).inFlight = s.inFlight := rfl
@[simp] theorem setFlight_flight : (s.setFlight v).flight = v := rfl
@[simp] theorem setFlight_placementsDue : (s.setFlight v).placementsDue = s.placementsDue := rfl
@[simp] theorem setFlight_fallbackPtr : (s.setFlight v).fallbackPtr = s.fallbackPtr := rfl
@[simp] theorem setFlight_records : (s.setFlight v).records = s.records := rfl
@[simp] theorem setFlight_openIntervals : (s.setFlight v).openIntervals = s.openIntervals := rfl
@[simp] theorem setFlight_register : (s.setFlight v).register = s.register := rfl
@[simp] theorem setFlight_deadlinesDue : (s.setFlight v).deadlinesDue = s.deadlinesDue := rfl
@[simp] theorem setFlight_closesDue : (s.setFlight v).closesDue = s.closesDue := rfl
@[simp] theorem setFlight_txQueue : (s.setFlight v).txQueue = s.txQueue := rfl
@[simp] theorem setFlight_rxBuffer : (s.setFlight v).rxBuffer = s.rxBuffer := rfl
@[simp] theorem setFlight_flags : (s.setFlight v).flags = s.flags := rfl
@[simp] theorem setFlight_agenda : (s.setFlight v).agenda = s.agenda := rfl
@[simp] theorem setFlight_freeCount : (s.setFlight v).freeCount = s.freeCount := rfl
@[simp] theorem setFlight_pending : (s.setFlight v).pending = s.pending := rfl
@[simp] theorem setFlight_ctx (i : Slot) : (s.setFlight v).ctx i = s.ctx i := rfl
@[simp] theorem setFlight_tagEntry (t : Tag) : (s.setFlight v).tagEntry t = s.tagEntry t := rfl
@[simp] theorem setFlight_slotOf (t : Tag) : (s.setFlight v).slotOf t = s.slotOf t := rfl
@[simp] theorem setFlight_own (b : Band) : (s.setFlight v).own b = s.own b := rfl
@[simp] theorem setFlight_neighbour (b : Band) : (s.setFlight v).neighbour b = s.neighbour b := rfl
@[simp] theorem setFlight_acting : (s.setFlight v).acting = s.acting := rfl

end Flight

section PlacementsDue
variable (s : State) (v : List Interval)

@[simp] theorem setPlacementsDue_resetN : (s.setPlacementsDue v).resetN = s.resetN := rfl
@[simp] theorem setPlacementsDue_ownStation : (s.setPlacementsDue v).ownStation = s.ownStation := rfl
@[simp] theorem setPlacementsDue_profile : (s.setPlacementsDue v).profile = s.profile := rfl
@[simp] theorem setPlacementsDue_station : (s.setPlacementsDue v).station = s.station := rfl
@[simp] theorem setPlacementsDue_resume : (s.setPlacementsDue v).resume = s.resume := rfl
@[simp] theorem setPlacementsDue_listening : (s.setPlacementsDue v).listening = s.listening := rfl
@[simp] theorem setPlacementsDue_resetSeq : (s.setPlacementsDue v).resetSeq = s.resetSeq := rfl
@[simp] theorem setPlacementsDue_interval : (s.setPlacementsDue v).interval = s.interval := rfl
@[simp] theorem setPlacementsDue_synced : (s.setPlacementsDue v).synced = s.synced := rfl
@[simp] theorem setPlacementsDue_contexts : (s.setPlacementsDue v).contexts = s.contexts := rfl
@[simp] theorem setPlacementsDue_tags : (s.setPlacementsDue v).tags = s.tags := rfl
@[simp] theorem setPlacementsDue_tagPtr : (s.setPlacementsDue v).tagPtr = s.tagPtr := rfl
@[simp] theorem setPlacementsDue_refreshPtr : (s.setPlacementsDue v).refreshPtr = s.refreshPtr := rfl
@[simp] theorem setPlacementsDue_claims : (s.setPlacementsDue v).claims = s.claims := rfl
@[simp] theorem setPlacementsDue_farDemand : (s.setPlacementsDue v).farDemand = s.farDemand := rfl
@[simp] theorem setPlacementsDue_spacing : (s.setPlacementsDue v).spacing = s.spacing := rfl
@[simp] theorem setPlacementsDue_neighbours : (s.setPlacementsDue v).neighbours = s.neighbours := rfl
@[simp] theorem setPlacementsDue_cause : (s.setPlacementsDue v).cause = s.cause := rfl
@[simp] theorem setPlacementsDue_inFlight : (s.setPlacementsDue v).inFlight = s.inFlight := rfl
@[simp] theorem setPlacementsDue_flight : (s.setPlacementsDue v).flight = s.flight := rfl
@[simp] theorem setPlacementsDue_placementsDue : (s.setPlacementsDue v).placementsDue = v := rfl
@[simp] theorem setPlacementsDue_fallbackPtr : (s.setPlacementsDue v).fallbackPtr = s.fallbackPtr := rfl
@[simp] theorem setPlacementsDue_records : (s.setPlacementsDue v).records = s.records := rfl
@[simp] theorem setPlacementsDue_openIntervals : (s.setPlacementsDue v).openIntervals = s.openIntervals := rfl
@[simp] theorem setPlacementsDue_register : (s.setPlacementsDue v).register = s.register := rfl
@[simp] theorem setPlacementsDue_deadlinesDue : (s.setPlacementsDue v).deadlinesDue = s.deadlinesDue := rfl
@[simp] theorem setPlacementsDue_closesDue : (s.setPlacementsDue v).closesDue = s.closesDue := rfl
@[simp] theorem setPlacementsDue_txQueue : (s.setPlacementsDue v).txQueue = s.txQueue := rfl
@[simp] theorem setPlacementsDue_rxBuffer : (s.setPlacementsDue v).rxBuffer = s.rxBuffer := rfl
@[simp] theorem setPlacementsDue_flags : (s.setPlacementsDue v).flags = s.flags := rfl
@[simp] theorem setPlacementsDue_agenda : (s.setPlacementsDue v).agenda = s.agenda := rfl
@[simp] theorem setPlacementsDue_freeCount : (s.setPlacementsDue v).freeCount = s.freeCount := rfl
@[simp] theorem setPlacementsDue_pending : (s.setPlacementsDue v).pending = s.pending := rfl
@[simp] theorem setPlacementsDue_ctx (i : Slot) : (s.setPlacementsDue v).ctx i = s.ctx i := rfl
@[simp] theorem setPlacementsDue_tagEntry (t : Tag) : (s.setPlacementsDue v).tagEntry t = s.tagEntry t := rfl
@[simp] theorem setPlacementsDue_slotOf (t : Tag) : (s.setPlacementsDue v).slotOf t = s.slotOf t := rfl
@[simp] theorem setPlacementsDue_own (b : Band) : (s.setPlacementsDue v).own b = s.own b := rfl
@[simp] theorem setPlacementsDue_neighbour (b : Band) : (s.setPlacementsDue v).neighbour b = s.neighbour b := rfl
@[simp] theorem setPlacementsDue_acting : (s.setPlacementsDue v).acting = s.acting := rfl

end PlacementsDue

section FallbackPtr
variable (s : State) (v : Both Slot)

@[simp] theorem setFallbackPtr_resetN : (s.setFallbackPtr v).resetN = s.resetN := rfl
@[simp] theorem setFallbackPtr_ownStation : (s.setFallbackPtr v).ownStation = s.ownStation := rfl
@[simp] theorem setFallbackPtr_profile : (s.setFallbackPtr v).profile = s.profile := rfl
@[simp] theorem setFallbackPtr_station : (s.setFallbackPtr v).station = s.station := rfl
@[simp] theorem setFallbackPtr_resume : (s.setFallbackPtr v).resume = s.resume := rfl
@[simp] theorem setFallbackPtr_listening : (s.setFallbackPtr v).listening = s.listening := rfl
@[simp] theorem setFallbackPtr_resetSeq : (s.setFallbackPtr v).resetSeq = s.resetSeq := rfl
@[simp] theorem setFallbackPtr_interval : (s.setFallbackPtr v).interval = s.interval := rfl
@[simp] theorem setFallbackPtr_synced : (s.setFallbackPtr v).synced = s.synced := rfl
@[simp] theorem setFallbackPtr_contexts : (s.setFallbackPtr v).contexts = s.contexts := rfl
@[simp] theorem setFallbackPtr_tags : (s.setFallbackPtr v).tags = s.tags := rfl
@[simp] theorem setFallbackPtr_tagPtr : (s.setFallbackPtr v).tagPtr = s.tagPtr := rfl
@[simp] theorem setFallbackPtr_refreshPtr : (s.setFallbackPtr v).refreshPtr = s.refreshPtr := rfl
@[simp] theorem setFallbackPtr_claims : (s.setFallbackPtr v).claims = s.claims := rfl
@[simp] theorem setFallbackPtr_farDemand : (s.setFallbackPtr v).farDemand = s.farDemand := rfl
@[simp] theorem setFallbackPtr_spacing : (s.setFallbackPtr v).spacing = s.spacing := rfl
@[simp] theorem setFallbackPtr_neighbours : (s.setFallbackPtr v).neighbours = s.neighbours := rfl
@[simp] theorem setFallbackPtr_cause : (s.setFallbackPtr v).cause = s.cause := rfl
@[simp] theorem setFallbackPtr_inFlight : (s.setFallbackPtr v).inFlight = s.inFlight := rfl
@[simp] theorem setFallbackPtr_flight : (s.setFallbackPtr v).flight = s.flight := rfl
@[simp] theorem setFallbackPtr_placementsDue : (s.setFallbackPtr v).placementsDue = s.placementsDue := rfl
@[simp] theorem setFallbackPtr_fallbackPtr : (s.setFallbackPtr v).fallbackPtr = v := rfl
@[simp] theorem setFallbackPtr_records : (s.setFallbackPtr v).records = s.records := rfl
@[simp] theorem setFallbackPtr_openIntervals : (s.setFallbackPtr v).openIntervals = s.openIntervals := rfl
@[simp] theorem setFallbackPtr_register : (s.setFallbackPtr v).register = s.register := rfl
@[simp] theorem setFallbackPtr_deadlinesDue : (s.setFallbackPtr v).deadlinesDue = s.deadlinesDue := rfl
@[simp] theorem setFallbackPtr_closesDue : (s.setFallbackPtr v).closesDue = s.closesDue := rfl
@[simp] theorem setFallbackPtr_txQueue : (s.setFallbackPtr v).txQueue = s.txQueue := rfl
@[simp] theorem setFallbackPtr_rxBuffer : (s.setFallbackPtr v).rxBuffer = s.rxBuffer := rfl
@[simp] theorem setFallbackPtr_flags : (s.setFallbackPtr v).flags = s.flags := rfl
@[simp] theorem setFallbackPtr_agenda : (s.setFallbackPtr v).agenda = s.agenda := rfl
@[simp] theorem setFallbackPtr_freeCount : (s.setFallbackPtr v).freeCount = s.freeCount := rfl
@[simp] theorem setFallbackPtr_pending : (s.setFallbackPtr v).pending = s.pending := rfl
@[simp] theorem setFallbackPtr_ctx (i : Slot) : (s.setFallbackPtr v).ctx i = s.ctx i := rfl
@[simp] theorem setFallbackPtr_tagEntry (t : Tag) : (s.setFallbackPtr v).tagEntry t = s.tagEntry t := rfl
@[simp] theorem setFallbackPtr_slotOf (t : Tag) : (s.setFallbackPtr v).slotOf t = s.slotOf t := rfl
@[simp] theorem setFallbackPtr_own (b : Band) : (s.setFallbackPtr v).own b = s.own b := rfl
@[simp] theorem setFallbackPtr_neighbour (b : Band) : (s.setFallbackPtr v).neighbour b = s.neighbour b := rfl
@[simp] theorem setFallbackPtr_acting : (s.setFallbackPtr v).acting = s.acting := rfl

end FallbackPtr

section Records
variable (s : State) (v : List Record)

@[simp] theorem setRecords_resetN : (s.setRecords v).resetN = s.resetN := rfl
@[simp] theorem setRecords_ownStation : (s.setRecords v).ownStation = s.ownStation := rfl
@[simp] theorem setRecords_profile : (s.setRecords v).profile = s.profile := rfl
@[simp] theorem setRecords_station : (s.setRecords v).station = s.station := rfl
@[simp] theorem setRecords_resume : (s.setRecords v).resume = s.resume := rfl
@[simp] theorem setRecords_listening : (s.setRecords v).listening = s.listening := rfl
@[simp] theorem setRecords_resetSeq : (s.setRecords v).resetSeq = s.resetSeq := rfl
@[simp] theorem setRecords_interval : (s.setRecords v).interval = s.interval := rfl
@[simp] theorem setRecords_synced : (s.setRecords v).synced = s.synced := rfl
@[simp] theorem setRecords_contexts : (s.setRecords v).contexts = s.contexts := rfl
@[simp] theorem setRecords_tags : (s.setRecords v).tags = s.tags := rfl
@[simp] theorem setRecords_tagPtr : (s.setRecords v).tagPtr = s.tagPtr := rfl
@[simp] theorem setRecords_refreshPtr : (s.setRecords v).refreshPtr = s.refreshPtr := rfl
@[simp] theorem setRecords_claims : (s.setRecords v).claims = s.claims := rfl
@[simp] theorem setRecords_farDemand : (s.setRecords v).farDemand = s.farDemand := rfl
@[simp] theorem setRecords_spacing : (s.setRecords v).spacing = s.spacing := rfl
@[simp] theorem setRecords_neighbours : (s.setRecords v).neighbours = s.neighbours := rfl
@[simp] theorem setRecords_cause : (s.setRecords v).cause = s.cause := rfl
@[simp] theorem setRecords_inFlight : (s.setRecords v).inFlight = s.inFlight := rfl
@[simp] theorem setRecords_flight : (s.setRecords v).flight = s.flight := rfl
@[simp] theorem setRecords_placementsDue : (s.setRecords v).placementsDue = s.placementsDue := rfl
@[simp] theorem setRecords_fallbackPtr : (s.setRecords v).fallbackPtr = s.fallbackPtr := rfl
@[simp] theorem setRecords_records : (s.setRecords v).records = v := rfl
@[simp] theorem setRecords_openIntervals : (s.setRecords v).openIntervals = s.openIntervals := rfl
@[simp] theorem setRecords_register : (s.setRecords v).register = s.register := rfl
@[simp] theorem setRecords_deadlinesDue : (s.setRecords v).deadlinesDue = s.deadlinesDue := rfl
@[simp] theorem setRecords_closesDue : (s.setRecords v).closesDue = s.closesDue := rfl
@[simp] theorem setRecords_txQueue : (s.setRecords v).txQueue = s.txQueue := rfl
@[simp] theorem setRecords_rxBuffer : (s.setRecords v).rxBuffer = s.rxBuffer := rfl
@[simp] theorem setRecords_flags : (s.setRecords v).flags = s.flags := rfl
@[simp] theorem setRecords_agenda : (s.setRecords v).agenda = s.agenda := rfl
@[simp] theorem setRecords_freeCount : (s.setRecords v).freeCount = s.freeCount := rfl
@[simp] theorem setRecords_pending : (s.setRecords v).pending = s.pending := rfl
@[simp] theorem setRecords_ctx (i : Slot) : (s.setRecords v).ctx i = s.ctx i := rfl
@[simp] theorem setRecords_tagEntry (t : Tag) : (s.setRecords v).tagEntry t = s.tagEntry t := rfl
@[simp] theorem setRecords_slotOf (t : Tag) : (s.setRecords v).slotOf t = s.slotOf t := rfl
@[simp] theorem setRecords_own (b : Band) : (s.setRecords v).own b = s.own b := rfl
@[simp] theorem setRecords_neighbour (b : Band) : (s.setRecords v).neighbour b = s.neighbour b := rfl
@[simp] theorem setRecords_acting : (s.setRecords v).acting = s.acting := rfl

end Records

section OpenIntervals
variable (s : State) (v : List OpenInterval)

@[simp] theorem setOpenIntervals_resetN : (s.setOpenIntervals v).resetN = s.resetN := rfl
@[simp] theorem setOpenIntervals_ownStation : (s.setOpenIntervals v).ownStation = s.ownStation := rfl
@[simp] theorem setOpenIntervals_profile : (s.setOpenIntervals v).profile = s.profile := rfl
@[simp] theorem setOpenIntervals_station : (s.setOpenIntervals v).station = s.station := rfl
@[simp] theorem setOpenIntervals_resume : (s.setOpenIntervals v).resume = s.resume := rfl
@[simp] theorem setOpenIntervals_listening : (s.setOpenIntervals v).listening = s.listening := rfl
@[simp] theorem setOpenIntervals_resetSeq : (s.setOpenIntervals v).resetSeq = s.resetSeq := rfl
@[simp] theorem setOpenIntervals_interval : (s.setOpenIntervals v).interval = s.interval := rfl
@[simp] theorem setOpenIntervals_synced : (s.setOpenIntervals v).synced = s.synced := rfl
@[simp] theorem setOpenIntervals_contexts : (s.setOpenIntervals v).contexts = s.contexts := rfl
@[simp] theorem setOpenIntervals_tags : (s.setOpenIntervals v).tags = s.tags := rfl
@[simp] theorem setOpenIntervals_tagPtr : (s.setOpenIntervals v).tagPtr = s.tagPtr := rfl
@[simp] theorem setOpenIntervals_refreshPtr : (s.setOpenIntervals v).refreshPtr = s.refreshPtr := rfl
@[simp] theorem setOpenIntervals_claims : (s.setOpenIntervals v).claims = s.claims := rfl
@[simp] theorem setOpenIntervals_farDemand : (s.setOpenIntervals v).farDemand = s.farDemand := rfl
@[simp] theorem setOpenIntervals_spacing : (s.setOpenIntervals v).spacing = s.spacing := rfl
@[simp] theorem setOpenIntervals_neighbours : (s.setOpenIntervals v).neighbours = s.neighbours := rfl
@[simp] theorem setOpenIntervals_cause : (s.setOpenIntervals v).cause = s.cause := rfl
@[simp] theorem setOpenIntervals_inFlight : (s.setOpenIntervals v).inFlight = s.inFlight := rfl
@[simp] theorem setOpenIntervals_flight : (s.setOpenIntervals v).flight = s.flight := rfl
@[simp] theorem setOpenIntervals_placementsDue : (s.setOpenIntervals v).placementsDue = s.placementsDue := rfl
@[simp] theorem setOpenIntervals_fallbackPtr : (s.setOpenIntervals v).fallbackPtr = s.fallbackPtr := rfl
@[simp] theorem setOpenIntervals_records : (s.setOpenIntervals v).records = s.records := rfl
@[simp] theorem setOpenIntervals_openIntervals : (s.setOpenIntervals v).openIntervals = v := rfl
@[simp] theorem setOpenIntervals_register : (s.setOpenIntervals v).register = s.register := rfl
@[simp] theorem setOpenIntervals_deadlinesDue : (s.setOpenIntervals v).deadlinesDue = s.deadlinesDue := rfl
@[simp] theorem setOpenIntervals_closesDue : (s.setOpenIntervals v).closesDue = s.closesDue := rfl
@[simp] theorem setOpenIntervals_txQueue : (s.setOpenIntervals v).txQueue = s.txQueue := rfl
@[simp] theorem setOpenIntervals_rxBuffer : (s.setOpenIntervals v).rxBuffer = s.rxBuffer := rfl
@[simp] theorem setOpenIntervals_flags : (s.setOpenIntervals v).flags = s.flags := rfl
@[simp] theorem setOpenIntervals_agenda : (s.setOpenIntervals v).agenda = s.agenda := rfl
@[simp] theorem setOpenIntervals_freeCount : (s.setOpenIntervals v).freeCount = s.freeCount := rfl
@[simp] theorem setOpenIntervals_pending : (s.setOpenIntervals v).pending = s.pending := rfl
@[simp] theorem setOpenIntervals_ctx (i : Slot) : (s.setOpenIntervals v).ctx i = s.ctx i := rfl
@[simp] theorem setOpenIntervals_tagEntry (t : Tag) : (s.setOpenIntervals v).tagEntry t = s.tagEntry t := rfl
@[simp] theorem setOpenIntervals_slotOf (t : Tag) : (s.setOpenIntervals v).slotOf t = s.slotOf t := rfl
@[simp] theorem setOpenIntervals_own (b : Band) : (s.setOpenIntervals v).own b = s.own b := rfl
@[simp] theorem setOpenIntervals_neighbour (b : Band) : (s.setOpenIntervals v).neighbour b = s.neighbour b := rfl
@[simp] theorem setOpenIntervals_acting : (s.setOpenIntervals v).acting = s.acting := rfl

end OpenIntervals

section Register
variable (s : State) (v : List RegisterEntry)

@[simp] theorem setRegister_resetN : (s.setRegister v).resetN = s.resetN := rfl
@[simp] theorem setRegister_ownStation : (s.setRegister v).ownStation = s.ownStation := rfl
@[simp] theorem setRegister_profile : (s.setRegister v).profile = s.profile := rfl
@[simp] theorem setRegister_station : (s.setRegister v).station = s.station := rfl
@[simp] theorem setRegister_resume : (s.setRegister v).resume = s.resume := rfl
@[simp] theorem setRegister_listening : (s.setRegister v).listening = s.listening := rfl
@[simp] theorem setRegister_resetSeq : (s.setRegister v).resetSeq = s.resetSeq := rfl
@[simp] theorem setRegister_interval : (s.setRegister v).interval = s.interval := rfl
@[simp] theorem setRegister_synced : (s.setRegister v).synced = s.synced := rfl
@[simp] theorem setRegister_contexts : (s.setRegister v).contexts = s.contexts := rfl
@[simp] theorem setRegister_tags : (s.setRegister v).tags = s.tags := rfl
@[simp] theorem setRegister_tagPtr : (s.setRegister v).tagPtr = s.tagPtr := rfl
@[simp] theorem setRegister_refreshPtr : (s.setRegister v).refreshPtr = s.refreshPtr := rfl
@[simp] theorem setRegister_claims : (s.setRegister v).claims = s.claims := rfl
@[simp] theorem setRegister_farDemand : (s.setRegister v).farDemand = s.farDemand := rfl
@[simp] theorem setRegister_spacing : (s.setRegister v).spacing = s.spacing := rfl
@[simp] theorem setRegister_neighbours : (s.setRegister v).neighbours = s.neighbours := rfl
@[simp] theorem setRegister_cause : (s.setRegister v).cause = s.cause := rfl
@[simp] theorem setRegister_inFlight : (s.setRegister v).inFlight = s.inFlight := rfl
@[simp] theorem setRegister_flight : (s.setRegister v).flight = s.flight := rfl
@[simp] theorem setRegister_placementsDue : (s.setRegister v).placementsDue = s.placementsDue := rfl
@[simp] theorem setRegister_fallbackPtr : (s.setRegister v).fallbackPtr = s.fallbackPtr := rfl
@[simp] theorem setRegister_records : (s.setRegister v).records = s.records := rfl
@[simp] theorem setRegister_openIntervals : (s.setRegister v).openIntervals = s.openIntervals := rfl
@[simp] theorem setRegister_register : (s.setRegister v).register = v := rfl
@[simp] theorem setRegister_deadlinesDue : (s.setRegister v).deadlinesDue = s.deadlinesDue := rfl
@[simp] theorem setRegister_closesDue : (s.setRegister v).closesDue = s.closesDue := rfl
@[simp] theorem setRegister_txQueue : (s.setRegister v).txQueue = s.txQueue := rfl
@[simp] theorem setRegister_rxBuffer : (s.setRegister v).rxBuffer = s.rxBuffer := rfl
@[simp] theorem setRegister_flags : (s.setRegister v).flags = s.flags := rfl
@[simp] theorem setRegister_agenda : (s.setRegister v).agenda = s.agenda := rfl
@[simp] theorem setRegister_freeCount : (s.setRegister v).freeCount = s.freeCount := rfl
@[simp] theorem setRegister_pending : (s.setRegister v).pending = s.pending := rfl
@[simp] theorem setRegister_ctx (i : Slot) : (s.setRegister v).ctx i = s.ctx i := rfl
@[simp] theorem setRegister_tagEntry (t : Tag) : (s.setRegister v).tagEntry t = s.tagEntry t := rfl
@[simp] theorem setRegister_slotOf (t : Tag) : (s.setRegister v).slotOf t = s.slotOf t := rfl
@[simp] theorem setRegister_own (b : Band) : (s.setRegister v).own b = s.own b := rfl
@[simp] theorem setRegister_neighbour (b : Band) : (s.setRegister v).neighbour b = s.neighbour b := rfl
@[simp] theorem setRegister_acting : (s.setRegister v).acting = s.acting := rfl

end Register

section DeadlinesDue
variable (s : State) (v : List Interval)

@[simp] theorem setDeadlinesDue_resetN : (s.setDeadlinesDue v).resetN = s.resetN := rfl
@[simp] theorem setDeadlinesDue_ownStation : (s.setDeadlinesDue v).ownStation = s.ownStation := rfl
@[simp] theorem setDeadlinesDue_profile : (s.setDeadlinesDue v).profile = s.profile := rfl
@[simp] theorem setDeadlinesDue_station : (s.setDeadlinesDue v).station = s.station := rfl
@[simp] theorem setDeadlinesDue_resume : (s.setDeadlinesDue v).resume = s.resume := rfl
@[simp] theorem setDeadlinesDue_listening : (s.setDeadlinesDue v).listening = s.listening := rfl
@[simp] theorem setDeadlinesDue_resetSeq : (s.setDeadlinesDue v).resetSeq = s.resetSeq := rfl
@[simp] theorem setDeadlinesDue_interval : (s.setDeadlinesDue v).interval = s.interval := rfl
@[simp] theorem setDeadlinesDue_synced : (s.setDeadlinesDue v).synced = s.synced := rfl
@[simp] theorem setDeadlinesDue_contexts : (s.setDeadlinesDue v).contexts = s.contexts := rfl
@[simp] theorem setDeadlinesDue_tags : (s.setDeadlinesDue v).tags = s.tags := rfl
@[simp] theorem setDeadlinesDue_tagPtr : (s.setDeadlinesDue v).tagPtr = s.tagPtr := rfl
@[simp] theorem setDeadlinesDue_refreshPtr : (s.setDeadlinesDue v).refreshPtr = s.refreshPtr := rfl
@[simp] theorem setDeadlinesDue_claims : (s.setDeadlinesDue v).claims = s.claims := rfl
@[simp] theorem setDeadlinesDue_farDemand : (s.setDeadlinesDue v).farDemand = s.farDemand := rfl
@[simp] theorem setDeadlinesDue_spacing : (s.setDeadlinesDue v).spacing = s.spacing := rfl
@[simp] theorem setDeadlinesDue_neighbours : (s.setDeadlinesDue v).neighbours = s.neighbours := rfl
@[simp] theorem setDeadlinesDue_cause : (s.setDeadlinesDue v).cause = s.cause := rfl
@[simp] theorem setDeadlinesDue_inFlight : (s.setDeadlinesDue v).inFlight = s.inFlight := rfl
@[simp] theorem setDeadlinesDue_flight : (s.setDeadlinesDue v).flight = s.flight := rfl
@[simp] theorem setDeadlinesDue_placementsDue : (s.setDeadlinesDue v).placementsDue = s.placementsDue := rfl
@[simp] theorem setDeadlinesDue_fallbackPtr : (s.setDeadlinesDue v).fallbackPtr = s.fallbackPtr := rfl
@[simp] theorem setDeadlinesDue_records : (s.setDeadlinesDue v).records = s.records := rfl
@[simp] theorem setDeadlinesDue_openIntervals : (s.setDeadlinesDue v).openIntervals = s.openIntervals := rfl
@[simp] theorem setDeadlinesDue_register : (s.setDeadlinesDue v).register = s.register := rfl
@[simp] theorem setDeadlinesDue_deadlinesDue : (s.setDeadlinesDue v).deadlinesDue = v := rfl
@[simp] theorem setDeadlinesDue_closesDue : (s.setDeadlinesDue v).closesDue = s.closesDue := rfl
@[simp] theorem setDeadlinesDue_txQueue : (s.setDeadlinesDue v).txQueue = s.txQueue := rfl
@[simp] theorem setDeadlinesDue_rxBuffer : (s.setDeadlinesDue v).rxBuffer = s.rxBuffer := rfl
@[simp] theorem setDeadlinesDue_flags : (s.setDeadlinesDue v).flags = s.flags := rfl
@[simp] theorem setDeadlinesDue_agenda : (s.setDeadlinesDue v).agenda = s.agenda := rfl
@[simp] theorem setDeadlinesDue_freeCount : (s.setDeadlinesDue v).freeCount = s.freeCount := rfl
@[simp] theorem setDeadlinesDue_pending : (s.setDeadlinesDue v).pending = s.pending := rfl
@[simp] theorem setDeadlinesDue_ctx (i : Slot) : (s.setDeadlinesDue v).ctx i = s.ctx i := rfl
@[simp] theorem setDeadlinesDue_tagEntry (t : Tag) : (s.setDeadlinesDue v).tagEntry t = s.tagEntry t := rfl
@[simp] theorem setDeadlinesDue_slotOf (t : Tag) : (s.setDeadlinesDue v).slotOf t = s.slotOf t := rfl
@[simp] theorem setDeadlinesDue_own (b : Band) : (s.setDeadlinesDue v).own b = s.own b := rfl
@[simp] theorem setDeadlinesDue_neighbour (b : Band) : (s.setDeadlinesDue v).neighbour b = s.neighbour b := rfl
@[simp] theorem setDeadlinesDue_acting : (s.setDeadlinesDue v).acting = s.acting := rfl

end DeadlinesDue

section ClosesDue
variable (s : State) (v : List (Interval × Direction))

@[simp] theorem setClosesDue_resetN : (s.setClosesDue v).resetN = s.resetN := rfl
@[simp] theorem setClosesDue_ownStation : (s.setClosesDue v).ownStation = s.ownStation := rfl
@[simp] theorem setClosesDue_profile : (s.setClosesDue v).profile = s.profile := rfl
@[simp] theorem setClosesDue_station : (s.setClosesDue v).station = s.station := rfl
@[simp] theorem setClosesDue_resume : (s.setClosesDue v).resume = s.resume := rfl
@[simp] theorem setClosesDue_listening : (s.setClosesDue v).listening = s.listening := rfl
@[simp] theorem setClosesDue_resetSeq : (s.setClosesDue v).resetSeq = s.resetSeq := rfl
@[simp] theorem setClosesDue_interval : (s.setClosesDue v).interval = s.interval := rfl
@[simp] theorem setClosesDue_synced : (s.setClosesDue v).synced = s.synced := rfl
@[simp] theorem setClosesDue_contexts : (s.setClosesDue v).contexts = s.contexts := rfl
@[simp] theorem setClosesDue_tags : (s.setClosesDue v).tags = s.tags := rfl
@[simp] theorem setClosesDue_tagPtr : (s.setClosesDue v).tagPtr = s.tagPtr := rfl
@[simp] theorem setClosesDue_refreshPtr : (s.setClosesDue v).refreshPtr = s.refreshPtr := rfl
@[simp] theorem setClosesDue_claims : (s.setClosesDue v).claims = s.claims := rfl
@[simp] theorem setClosesDue_farDemand : (s.setClosesDue v).farDemand = s.farDemand := rfl
@[simp] theorem setClosesDue_spacing : (s.setClosesDue v).spacing = s.spacing := rfl
@[simp] theorem setClosesDue_neighbours : (s.setClosesDue v).neighbours = s.neighbours := rfl
@[simp] theorem setClosesDue_cause : (s.setClosesDue v).cause = s.cause := rfl
@[simp] theorem setClosesDue_inFlight : (s.setClosesDue v).inFlight = s.inFlight := rfl
@[simp] theorem setClosesDue_flight : (s.setClosesDue v).flight = s.flight := rfl
@[simp] theorem setClosesDue_placementsDue : (s.setClosesDue v).placementsDue = s.placementsDue := rfl
@[simp] theorem setClosesDue_fallbackPtr : (s.setClosesDue v).fallbackPtr = s.fallbackPtr := rfl
@[simp] theorem setClosesDue_records : (s.setClosesDue v).records = s.records := rfl
@[simp] theorem setClosesDue_openIntervals : (s.setClosesDue v).openIntervals = s.openIntervals := rfl
@[simp] theorem setClosesDue_register : (s.setClosesDue v).register = s.register := rfl
@[simp] theorem setClosesDue_deadlinesDue : (s.setClosesDue v).deadlinesDue = s.deadlinesDue := rfl
@[simp] theorem setClosesDue_closesDue : (s.setClosesDue v).closesDue = v := rfl
@[simp] theorem setClosesDue_txQueue : (s.setClosesDue v).txQueue = s.txQueue := rfl
@[simp] theorem setClosesDue_rxBuffer : (s.setClosesDue v).rxBuffer = s.rxBuffer := rfl
@[simp] theorem setClosesDue_flags : (s.setClosesDue v).flags = s.flags := rfl
@[simp] theorem setClosesDue_agenda : (s.setClosesDue v).agenda = s.agenda := rfl
@[simp] theorem setClosesDue_freeCount : (s.setClosesDue v).freeCount = s.freeCount := rfl
@[simp] theorem setClosesDue_pending : (s.setClosesDue v).pending = s.pending := rfl
@[simp] theorem setClosesDue_ctx (i : Slot) : (s.setClosesDue v).ctx i = s.ctx i := rfl
@[simp] theorem setClosesDue_tagEntry (t : Tag) : (s.setClosesDue v).tagEntry t = s.tagEntry t := rfl
@[simp] theorem setClosesDue_slotOf (t : Tag) : (s.setClosesDue v).slotOf t = s.slotOf t := rfl
@[simp] theorem setClosesDue_own (b : Band) : (s.setClosesDue v).own b = s.own b := rfl
@[simp] theorem setClosesDue_neighbour (b : Band) : (s.setClosesDue v).neighbour b = s.neighbour b := rfl
@[simp] theorem setClosesDue_acting : (s.setClosesDue v).acting = s.acting := rfl

end ClosesDue

section TxQueue
variable (s : State) (v : List TxTelegram)

@[simp] theorem setTxQueue_resetN : (s.setTxQueue v).resetN = s.resetN := rfl
@[simp] theorem setTxQueue_ownStation : (s.setTxQueue v).ownStation = s.ownStation := rfl
@[simp] theorem setTxQueue_profile : (s.setTxQueue v).profile = s.profile := rfl
@[simp] theorem setTxQueue_station : (s.setTxQueue v).station = s.station := rfl
@[simp] theorem setTxQueue_resume : (s.setTxQueue v).resume = s.resume := rfl
@[simp] theorem setTxQueue_listening : (s.setTxQueue v).listening = s.listening := rfl
@[simp] theorem setTxQueue_resetSeq : (s.setTxQueue v).resetSeq = s.resetSeq := rfl
@[simp] theorem setTxQueue_interval : (s.setTxQueue v).interval = s.interval := rfl
@[simp] theorem setTxQueue_synced : (s.setTxQueue v).synced = s.synced := rfl
@[simp] theorem setTxQueue_contexts : (s.setTxQueue v).contexts = s.contexts := rfl
@[simp] theorem setTxQueue_tags : (s.setTxQueue v).tags = s.tags := rfl
@[simp] theorem setTxQueue_tagPtr : (s.setTxQueue v).tagPtr = s.tagPtr := rfl
@[simp] theorem setTxQueue_refreshPtr : (s.setTxQueue v).refreshPtr = s.refreshPtr := rfl
@[simp] theorem setTxQueue_claims : (s.setTxQueue v).claims = s.claims := rfl
@[simp] theorem setTxQueue_farDemand : (s.setTxQueue v).farDemand = s.farDemand := rfl
@[simp] theorem setTxQueue_spacing : (s.setTxQueue v).spacing = s.spacing := rfl
@[simp] theorem setTxQueue_neighbours : (s.setTxQueue v).neighbours = s.neighbours := rfl
@[simp] theorem setTxQueue_cause : (s.setTxQueue v).cause = s.cause := rfl
@[simp] theorem setTxQueue_inFlight : (s.setTxQueue v).inFlight = s.inFlight := rfl
@[simp] theorem setTxQueue_flight : (s.setTxQueue v).flight = s.flight := rfl
@[simp] theorem setTxQueue_placementsDue : (s.setTxQueue v).placementsDue = s.placementsDue := rfl
@[simp] theorem setTxQueue_fallbackPtr : (s.setTxQueue v).fallbackPtr = s.fallbackPtr := rfl
@[simp] theorem setTxQueue_records : (s.setTxQueue v).records = s.records := rfl
@[simp] theorem setTxQueue_openIntervals : (s.setTxQueue v).openIntervals = s.openIntervals := rfl
@[simp] theorem setTxQueue_register : (s.setTxQueue v).register = s.register := rfl
@[simp] theorem setTxQueue_deadlinesDue : (s.setTxQueue v).deadlinesDue = s.deadlinesDue := rfl
@[simp] theorem setTxQueue_closesDue : (s.setTxQueue v).closesDue = s.closesDue := rfl
@[simp] theorem setTxQueue_txQueue : (s.setTxQueue v).txQueue = v := rfl
@[simp] theorem setTxQueue_rxBuffer : (s.setTxQueue v).rxBuffer = s.rxBuffer := rfl
@[simp] theorem setTxQueue_flags : (s.setTxQueue v).flags = s.flags := rfl
@[simp] theorem setTxQueue_agenda : (s.setTxQueue v).agenda = s.agenda := rfl
@[simp] theorem setTxQueue_freeCount : (s.setTxQueue v).freeCount = s.freeCount := rfl
@[simp] theorem setTxQueue_pending : (s.setTxQueue v).pending = s.pending := rfl
@[simp] theorem setTxQueue_ctx (i : Slot) : (s.setTxQueue v).ctx i = s.ctx i := rfl
@[simp] theorem setTxQueue_tagEntry (t : Tag) : (s.setTxQueue v).tagEntry t = s.tagEntry t := rfl
@[simp] theorem setTxQueue_slotOf (t : Tag) : (s.setTxQueue v).slotOf t = s.slotOf t := rfl
@[simp] theorem setTxQueue_own (b : Band) : (s.setTxQueue v).own b = s.own b := rfl
@[simp] theorem setTxQueue_neighbour (b : Band) : (s.setTxQueue v).neighbour b = s.neighbour b := rfl
@[simp] theorem setTxQueue_acting : (s.setTxQueue v).acting = s.acting := rfl

end TxQueue

section RxBuffer
variable (s : State) (v : List RxTelegram)

@[simp] theorem setRxBuffer_resetN : (s.setRxBuffer v).resetN = s.resetN := rfl
@[simp] theorem setRxBuffer_ownStation : (s.setRxBuffer v).ownStation = s.ownStation := rfl
@[simp] theorem setRxBuffer_profile : (s.setRxBuffer v).profile = s.profile := rfl
@[simp] theorem setRxBuffer_station : (s.setRxBuffer v).station = s.station := rfl
@[simp] theorem setRxBuffer_resume : (s.setRxBuffer v).resume = s.resume := rfl
@[simp] theorem setRxBuffer_listening : (s.setRxBuffer v).listening = s.listening := rfl
@[simp] theorem setRxBuffer_resetSeq : (s.setRxBuffer v).resetSeq = s.resetSeq := rfl
@[simp] theorem setRxBuffer_interval : (s.setRxBuffer v).interval = s.interval := rfl
@[simp] theorem setRxBuffer_synced : (s.setRxBuffer v).synced = s.synced := rfl
@[simp] theorem setRxBuffer_contexts : (s.setRxBuffer v).contexts = s.contexts := rfl
@[simp] theorem setRxBuffer_tags : (s.setRxBuffer v).tags = s.tags := rfl
@[simp] theorem setRxBuffer_tagPtr : (s.setRxBuffer v).tagPtr = s.tagPtr := rfl
@[simp] theorem setRxBuffer_refreshPtr : (s.setRxBuffer v).refreshPtr = s.refreshPtr := rfl
@[simp] theorem setRxBuffer_claims : (s.setRxBuffer v).claims = s.claims := rfl
@[simp] theorem setRxBuffer_farDemand : (s.setRxBuffer v).farDemand = s.farDemand := rfl
@[simp] theorem setRxBuffer_spacing : (s.setRxBuffer v).spacing = s.spacing := rfl
@[simp] theorem setRxBuffer_neighbours : (s.setRxBuffer v).neighbours = s.neighbours := rfl
@[simp] theorem setRxBuffer_cause : (s.setRxBuffer v).cause = s.cause := rfl
@[simp] theorem setRxBuffer_inFlight : (s.setRxBuffer v).inFlight = s.inFlight := rfl
@[simp] theorem setRxBuffer_flight : (s.setRxBuffer v).flight = s.flight := rfl
@[simp] theorem setRxBuffer_placementsDue : (s.setRxBuffer v).placementsDue = s.placementsDue := rfl
@[simp] theorem setRxBuffer_fallbackPtr : (s.setRxBuffer v).fallbackPtr = s.fallbackPtr := rfl
@[simp] theorem setRxBuffer_records : (s.setRxBuffer v).records = s.records := rfl
@[simp] theorem setRxBuffer_openIntervals : (s.setRxBuffer v).openIntervals = s.openIntervals := rfl
@[simp] theorem setRxBuffer_register : (s.setRxBuffer v).register = s.register := rfl
@[simp] theorem setRxBuffer_deadlinesDue : (s.setRxBuffer v).deadlinesDue = s.deadlinesDue := rfl
@[simp] theorem setRxBuffer_closesDue : (s.setRxBuffer v).closesDue = s.closesDue := rfl
@[simp] theorem setRxBuffer_txQueue : (s.setRxBuffer v).txQueue = s.txQueue := rfl
@[simp] theorem setRxBuffer_rxBuffer : (s.setRxBuffer v).rxBuffer = v := rfl
@[simp] theorem setRxBuffer_flags : (s.setRxBuffer v).flags = s.flags := rfl
@[simp] theorem setRxBuffer_agenda : (s.setRxBuffer v).agenda = s.agenda := rfl
@[simp] theorem setRxBuffer_freeCount : (s.setRxBuffer v).freeCount = s.freeCount := rfl
@[simp] theorem setRxBuffer_pending : (s.setRxBuffer v).pending = s.pending := rfl
@[simp] theorem setRxBuffer_ctx (i : Slot) : (s.setRxBuffer v).ctx i = s.ctx i := rfl
@[simp] theorem setRxBuffer_tagEntry (t : Tag) : (s.setRxBuffer v).tagEntry t = s.tagEntry t := rfl
@[simp] theorem setRxBuffer_slotOf (t : Tag) : (s.setRxBuffer v).slotOf t = s.slotOf t := rfl
@[simp] theorem setRxBuffer_own (b : Band) : (s.setRxBuffer v).own b = s.own b := rfl
@[simp] theorem setRxBuffer_neighbour (b : Band) : (s.setRxBuffer v).neighbour b = s.neighbour b := rfl
@[simp] theorem setRxBuffer_acting : (s.setRxBuffer v).acting = s.acting := rfl

end RxBuffer

section Flags
variable (s : State) (v : BitVec 16)

@[simp] theorem setFlags_resetN : (s.setFlags v).resetN = s.resetN := rfl
@[simp] theorem setFlags_ownStation : (s.setFlags v).ownStation = s.ownStation := rfl
@[simp] theorem setFlags_profile : (s.setFlags v).profile = s.profile := rfl
@[simp] theorem setFlags_station : (s.setFlags v).station = s.station := rfl
@[simp] theorem setFlags_resume : (s.setFlags v).resume = s.resume := rfl
@[simp] theorem setFlags_listening : (s.setFlags v).listening = s.listening := rfl
@[simp] theorem setFlags_resetSeq : (s.setFlags v).resetSeq = s.resetSeq := rfl
@[simp] theorem setFlags_interval : (s.setFlags v).interval = s.interval := rfl
@[simp] theorem setFlags_synced : (s.setFlags v).synced = s.synced := rfl
@[simp] theorem setFlags_contexts : (s.setFlags v).contexts = s.contexts := rfl
@[simp] theorem setFlags_tags : (s.setFlags v).tags = s.tags := rfl
@[simp] theorem setFlags_tagPtr : (s.setFlags v).tagPtr = s.tagPtr := rfl
@[simp] theorem setFlags_refreshPtr : (s.setFlags v).refreshPtr = s.refreshPtr := rfl
@[simp] theorem setFlags_claims : (s.setFlags v).claims = s.claims := rfl
@[simp] theorem setFlags_farDemand : (s.setFlags v).farDemand = s.farDemand := rfl
@[simp] theorem setFlags_spacing : (s.setFlags v).spacing = s.spacing := rfl
@[simp] theorem setFlags_neighbours : (s.setFlags v).neighbours = s.neighbours := rfl
@[simp] theorem setFlags_cause : (s.setFlags v).cause = s.cause := rfl
@[simp] theorem setFlags_inFlight : (s.setFlags v).inFlight = s.inFlight := rfl
@[simp] theorem setFlags_flight : (s.setFlags v).flight = s.flight := rfl
@[simp] theorem setFlags_placementsDue : (s.setFlags v).placementsDue = s.placementsDue := rfl
@[simp] theorem setFlags_fallbackPtr : (s.setFlags v).fallbackPtr = s.fallbackPtr := rfl
@[simp] theorem setFlags_records : (s.setFlags v).records = s.records := rfl
@[simp] theorem setFlags_openIntervals : (s.setFlags v).openIntervals = s.openIntervals := rfl
@[simp] theorem setFlags_register : (s.setFlags v).register = s.register := rfl
@[simp] theorem setFlags_deadlinesDue : (s.setFlags v).deadlinesDue = s.deadlinesDue := rfl
@[simp] theorem setFlags_closesDue : (s.setFlags v).closesDue = s.closesDue := rfl
@[simp] theorem setFlags_txQueue : (s.setFlags v).txQueue = s.txQueue := rfl
@[simp] theorem setFlags_rxBuffer : (s.setFlags v).rxBuffer = s.rxBuffer := rfl
@[simp] theorem setFlags_flags : (s.setFlags v).flags = v := rfl
@[simp] theorem setFlags_agenda : (s.setFlags v).agenda = s.agenda := rfl
@[simp] theorem setFlags_freeCount : (s.setFlags v).freeCount = s.freeCount := rfl
@[simp] theorem setFlags_pending : (s.setFlags v).pending = s.pending := rfl
@[simp] theorem setFlags_ctx (i : Slot) : (s.setFlags v).ctx i = s.ctx i := rfl
@[simp] theorem setFlags_tagEntry (t : Tag) : (s.setFlags v).tagEntry t = s.tagEntry t := rfl
@[simp] theorem setFlags_slotOf (t : Tag) : (s.setFlags v).slotOf t = s.slotOf t := rfl
@[simp] theorem setFlags_own (b : Band) : (s.setFlags v).own b = s.own b := rfl
@[simp] theorem setFlags_neighbour (b : Band) : (s.setFlags v).neighbour b = s.neighbour b := rfl
@[simp] theorem setFlags_acting : (s.setFlags v).acting = s.acting := rfl

end Flags

section Agenda
variable (s : State) (v : List Due)

@[simp] theorem setAgenda_resetN : (s.setAgenda v).resetN = s.resetN := rfl
@[simp] theorem setAgenda_ownStation : (s.setAgenda v).ownStation = s.ownStation := rfl
@[simp] theorem setAgenda_profile : (s.setAgenda v).profile = s.profile := rfl
@[simp] theorem setAgenda_station : (s.setAgenda v).station = s.station := rfl
@[simp] theorem setAgenda_resume : (s.setAgenda v).resume = s.resume := rfl
@[simp] theorem setAgenda_listening : (s.setAgenda v).listening = s.listening := rfl
@[simp] theorem setAgenda_resetSeq : (s.setAgenda v).resetSeq = s.resetSeq := rfl
@[simp] theorem setAgenda_interval : (s.setAgenda v).interval = s.interval := rfl
@[simp] theorem setAgenda_synced : (s.setAgenda v).synced = s.synced := rfl
@[simp] theorem setAgenda_contexts : (s.setAgenda v).contexts = s.contexts := rfl
@[simp] theorem setAgenda_tags : (s.setAgenda v).tags = s.tags := rfl
@[simp] theorem setAgenda_tagPtr : (s.setAgenda v).tagPtr = s.tagPtr := rfl
@[simp] theorem setAgenda_refreshPtr : (s.setAgenda v).refreshPtr = s.refreshPtr := rfl
@[simp] theorem setAgenda_claims : (s.setAgenda v).claims = s.claims := rfl
@[simp] theorem setAgenda_farDemand : (s.setAgenda v).farDemand = s.farDemand := rfl
@[simp] theorem setAgenda_spacing : (s.setAgenda v).spacing = s.spacing := rfl
@[simp] theorem setAgenda_neighbours : (s.setAgenda v).neighbours = s.neighbours := rfl
@[simp] theorem setAgenda_cause : (s.setAgenda v).cause = s.cause := rfl
@[simp] theorem setAgenda_inFlight : (s.setAgenda v).inFlight = s.inFlight := rfl
@[simp] theorem setAgenda_flight : (s.setAgenda v).flight = s.flight := rfl
@[simp] theorem setAgenda_placementsDue : (s.setAgenda v).placementsDue = s.placementsDue := rfl
@[simp] theorem setAgenda_fallbackPtr : (s.setAgenda v).fallbackPtr = s.fallbackPtr := rfl
@[simp] theorem setAgenda_records : (s.setAgenda v).records = s.records := rfl
@[simp] theorem setAgenda_openIntervals : (s.setAgenda v).openIntervals = s.openIntervals := rfl
@[simp] theorem setAgenda_register : (s.setAgenda v).register = s.register := rfl
@[simp] theorem setAgenda_deadlinesDue : (s.setAgenda v).deadlinesDue = s.deadlinesDue := rfl
@[simp] theorem setAgenda_closesDue : (s.setAgenda v).closesDue = s.closesDue := rfl
@[simp] theorem setAgenda_txQueue : (s.setAgenda v).txQueue = s.txQueue := rfl
@[simp] theorem setAgenda_rxBuffer : (s.setAgenda v).rxBuffer = s.rxBuffer := rfl
@[simp] theorem setAgenda_flags : (s.setAgenda v).flags = s.flags := rfl
@[simp] theorem setAgenda_agenda : (s.setAgenda v).agenda = v := rfl
@[simp] theorem setAgenda_freeCount : (s.setAgenda v).freeCount = s.freeCount := rfl
@[simp] theorem setAgenda_pending : (s.setAgenda v).pending = s.pending := rfl
@[simp] theorem setAgenda_ctx (i : Slot) : (s.setAgenda v).ctx i = s.ctx i := rfl
@[simp] theorem setAgenda_tagEntry (t : Tag) : (s.setAgenda v).tagEntry t = s.tagEntry t := rfl
@[simp] theorem setAgenda_slotOf (t : Tag) : (s.setAgenda v).slotOf t = s.slotOf t := rfl
@[simp] theorem setAgenda_own (b : Band) : (s.setAgenda v).own b = s.own b := rfl
@[simp] theorem setAgenda_neighbour (b : Band) : (s.setAgenda v).neighbour b = s.neighbour b := rfl
@[simp] theorem setAgenda_acting : (s.setAgenda v).acting = s.acting := rfl

end Agenda

section FreeCount
variable (s : State) (v : Nat)

@[simp] theorem setFreeCount_resetN : (s.setFreeCount v).resetN = s.resetN := rfl
@[simp] theorem setFreeCount_ownStation : (s.setFreeCount v).ownStation = s.ownStation := rfl
@[simp] theorem setFreeCount_profile : (s.setFreeCount v).profile = s.profile := rfl
@[simp] theorem setFreeCount_station : (s.setFreeCount v).station = s.station := rfl
@[simp] theorem setFreeCount_resume : (s.setFreeCount v).resume = s.resume := rfl
@[simp] theorem setFreeCount_listening : (s.setFreeCount v).listening = s.listening := rfl
@[simp] theorem setFreeCount_resetSeq : (s.setFreeCount v).resetSeq = s.resetSeq := rfl
@[simp] theorem setFreeCount_interval : (s.setFreeCount v).interval = s.interval := rfl
@[simp] theorem setFreeCount_synced : (s.setFreeCount v).synced = s.synced := rfl
@[simp] theorem setFreeCount_contexts : (s.setFreeCount v).contexts = s.contexts := rfl
@[simp] theorem setFreeCount_tags : (s.setFreeCount v).tags = s.tags := rfl
@[simp] theorem setFreeCount_tagPtr : (s.setFreeCount v).tagPtr = s.tagPtr := rfl
@[simp] theorem setFreeCount_refreshPtr : (s.setFreeCount v).refreshPtr = s.refreshPtr := rfl
@[simp] theorem setFreeCount_claims : (s.setFreeCount v).claims = s.claims := rfl
@[simp] theorem setFreeCount_farDemand : (s.setFreeCount v).farDemand = s.farDemand := rfl
@[simp] theorem setFreeCount_spacing : (s.setFreeCount v).spacing = s.spacing := rfl
@[simp] theorem setFreeCount_neighbours : (s.setFreeCount v).neighbours = s.neighbours := rfl
@[simp] theorem setFreeCount_cause : (s.setFreeCount v).cause = s.cause := rfl
@[simp] theorem setFreeCount_inFlight : (s.setFreeCount v).inFlight = s.inFlight := rfl
@[simp] theorem setFreeCount_flight : (s.setFreeCount v).flight = s.flight := rfl
@[simp] theorem setFreeCount_placementsDue : (s.setFreeCount v).placementsDue = s.placementsDue := rfl
@[simp] theorem setFreeCount_fallbackPtr : (s.setFreeCount v).fallbackPtr = s.fallbackPtr := rfl
@[simp] theorem setFreeCount_records : (s.setFreeCount v).records = s.records := rfl
@[simp] theorem setFreeCount_openIntervals : (s.setFreeCount v).openIntervals = s.openIntervals := rfl
@[simp] theorem setFreeCount_register : (s.setFreeCount v).register = s.register := rfl
@[simp] theorem setFreeCount_deadlinesDue : (s.setFreeCount v).deadlinesDue = s.deadlinesDue := rfl
@[simp] theorem setFreeCount_closesDue : (s.setFreeCount v).closesDue = s.closesDue := rfl
@[simp] theorem setFreeCount_txQueue : (s.setFreeCount v).txQueue = s.txQueue := rfl
@[simp] theorem setFreeCount_rxBuffer : (s.setFreeCount v).rxBuffer = s.rxBuffer := rfl
@[simp] theorem setFreeCount_flags : (s.setFreeCount v).flags = s.flags := rfl
@[simp] theorem setFreeCount_agenda : (s.setFreeCount v).agenda = s.agenda := rfl
@[simp] theorem setFreeCount_freeCount : (s.setFreeCount v).freeCount = v := rfl
@[simp] theorem setFreeCount_pending : (s.setFreeCount v).pending = s.pending := rfl
@[simp] theorem setFreeCount_ctx (i : Slot) : (s.setFreeCount v).ctx i = s.ctx i := rfl
@[simp] theorem setFreeCount_tagEntry (t : Tag) : (s.setFreeCount v).tagEntry t = s.tagEntry t := rfl
@[simp] theorem setFreeCount_slotOf (t : Tag) : (s.setFreeCount v).slotOf t = s.slotOf t := rfl
@[simp] theorem setFreeCount_own (b : Band) : (s.setFreeCount v).own b = s.own b := rfl
@[simp] theorem setFreeCount_neighbour (b : Band) : (s.setFreeCount v).neighbour b = s.neighbour b := rfl
@[simp] theorem setFreeCount_acting : (s.setFreeCount v).acting = s.acting := rfl

end FreeCount

section Pending
variable (s : State) (v : List Instr)

@[simp] theorem setPending_resetN : (s.setPending v).resetN = s.resetN := rfl
@[simp] theorem setPending_ownStation : (s.setPending v).ownStation = s.ownStation := rfl
@[simp] theorem setPending_profile : (s.setPending v).profile = s.profile := rfl
@[simp] theorem setPending_station : (s.setPending v).station = s.station := rfl
@[simp] theorem setPending_resume : (s.setPending v).resume = s.resume := rfl
@[simp] theorem setPending_listening : (s.setPending v).listening = s.listening := rfl
@[simp] theorem setPending_resetSeq : (s.setPending v).resetSeq = s.resetSeq := rfl
@[simp] theorem setPending_interval : (s.setPending v).interval = s.interval := rfl
@[simp] theorem setPending_synced : (s.setPending v).synced = s.synced := rfl
@[simp] theorem setPending_contexts : (s.setPending v).contexts = s.contexts := rfl
@[simp] theorem setPending_tags : (s.setPending v).tags = s.tags := rfl
@[simp] theorem setPending_tagPtr : (s.setPending v).tagPtr = s.tagPtr := rfl
@[simp] theorem setPending_refreshPtr : (s.setPending v).refreshPtr = s.refreshPtr := rfl
@[simp] theorem setPending_claims : (s.setPending v).claims = s.claims := rfl
@[simp] theorem setPending_farDemand : (s.setPending v).farDemand = s.farDemand := rfl
@[simp] theorem setPending_spacing : (s.setPending v).spacing = s.spacing := rfl
@[simp] theorem setPending_neighbours : (s.setPending v).neighbours = s.neighbours := rfl
@[simp] theorem setPending_cause : (s.setPending v).cause = s.cause := rfl
@[simp] theorem setPending_inFlight : (s.setPending v).inFlight = s.inFlight := rfl
@[simp] theorem setPending_flight : (s.setPending v).flight = s.flight := rfl
@[simp] theorem setPending_placementsDue : (s.setPending v).placementsDue = s.placementsDue := rfl
@[simp] theorem setPending_fallbackPtr : (s.setPending v).fallbackPtr = s.fallbackPtr := rfl
@[simp] theorem setPending_records : (s.setPending v).records = s.records := rfl
@[simp] theorem setPending_openIntervals : (s.setPending v).openIntervals = s.openIntervals := rfl
@[simp] theorem setPending_register : (s.setPending v).register = s.register := rfl
@[simp] theorem setPending_deadlinesDue : (s.setPending v).deadlinesDue = s.deadlinesDue := rfl
@[simp] theorem setPending_closesDue : (s.setPending v).closesDue = s.closesDue := rfl
@[simp] theorem setPending_txQueue : (s.setPending v).txQueue = s.txQueue := rfl
@[simp] theorem setPending_rxBuffer : (s.setPending v).rxBuffer = s.rxBuffer := rfl
@[simp] theorem setPending_flags : (s.setPending v).flags = s.flags := rfl
@[simp] theorem setPending_agenda : (s.setPending v).agenda = s.agenda := rfl
@[simp] theorem setPending_freeCount : (s.setPending v).freeCount = s.freeCount := rfl
@[simp] theorem setPending_pending : (s.setPending v).pending = v := rfl
@[simp] theorem setPending_ctx (i : Slot) : (s.setPending v).ctx i = s.ctx i := rfl
@[simp] theorem setPending_tagEntry (t : Tag) : (s.setPending v).tagEntry t = s.tagEntry t := rfl
@[simp] theorem setPending_slotOf (t : Tag) : (s.setPending v).slotOf t = s.slotOf t := rfl
@[simp] theorem setPending_own (b : Band) : (s.setPending v).own b = s.own b := rfl
@[simp] theorem setPending_neighbour (b : Band) : (s.setPending v).neighbour b = s.neighbour b := rfl
@[simp] theorem setPending_acting : (s.setPending v).acting = s.acting := rfl

end Pending

section PutCtx
variable (s : State) (k : Slot) (v : Context)

@[simp] theorem putCtx_resetN : (s.putCtx k v).resetN = s.resetN := rfl
@[simp] theorem putCtx_ownStation : (s.putCtx k v).ownStation = s.ownStation := rfl
@[simp] theorem putCtx_profile : (s.putCtx k v).profile = s.profile := rfl
@[simp] theorem putCtx_station : (s.putCtx k v).station = s.station := rfl
@[simp] theorem putCtx_resume : (s.putCtx k v).resume = s.resume := rfl
@[simp] theorem putCtx_listening : (s.putCtx k v).listening = s.listening := rfl
@[simp] theorem putCtx_resetSeq : (s.putCtx k v).resetSeq = s.resetSeq := rfl
@[simp] theorem putCtx_interval : (s.putCtx k v).interval = s.interval := rfl
@[simp] theorem putCtx_synced : (s.putCtx k v).synced = s.synced := rfl
@[simp] theorem putCtx_tags : (s.putCtx k v).tags = s.tags := rfl
@[simp] theorem putCtx_tagPtr : (s.putCtx k v).tagPtr = s.tagPtr := rfl
@[simp] theorem putCtx_refreshPtr : (s.putCtx k v).refreshPtr = s.refreshPtr := rfl
@[simp] theorem putCtx_claims : (s.putCtx k v).claims = s.claims := rfl
@[simp] theorem putCtx_farDemand : (s.putCtx k v).farDemand = s.farDemand := rfl
@[simp] theorem putCtx_spacing : (s.putCtx k v).spacing = s.spacing := rfl
@[simp] theorem putCtx_neighbours : (s.putCtx k v).neighbours = s.neighbours := rfl
@[simp] theorem putCtx_cause : (s.putCtx k v).cause = s.cause := rfl
@[simp] theorem putCtx_inFlight : (s.putCtx k v).inFlight = s.inFlight := rfl
@[simp] theorem putCtx_flight : (s.putCtx k v).flight = s.flight := rfl
@[simp] theorem putCtx_placementsDue : (s.putCtx k v).placementsDue = s.placementsDue := rfl
@[simp] theorem putCtx_fallbackPtr : (s.putCtx k v).fallbackPtr = s.fallbackPtr := rfl
@[simp] theorem putCtx_records : (s.putCtx k v).records = s.records := rfl
@[simp] theorem putCtx_openIntervals : (s.putCtx k v).openIntervals = s.openIntervals := rfl
@[simp] theorem putCtx_register : (s.putCtx k v).register = s.register := rfl
@[simp] theorem putCtx_deadlinesDue : (s.putCtx k v).deadlinesDue = s.deadlinesDue := rfl
@[simp] theorem putCtx_closesDue : (s.putCtx k v).closesDue = s.closesDue := rfl
@[simp] theorem putCtx_txQueue : (s.putCtx k v).txQueue = s.txQueue := rfl
@[simp] theorem putCtx_rxBuffer : (s.putCtx k v).rxBuffer = s.rxBuffer := rfl
@[simp] theorem putCtx_flags : (s.putCtx k v).flags = s.flags := rfl
@[simp] theorem putCtx_agenda : (s.putCtx k v).agenda = s.agenda := rfl
@[simp] theorem putCtx_freeCount : (s.putCtx k v).freeCount = s.freeCount := rfl
@[simp] theorem putCtx_pending : (s.putCtx k v).pending = s.pending := rfl
@[simp] theorem putCtx_tagEntry (t : Tag) : (s.putCtx k v).tagEntry t = s.tagEntry t := rfl
@[simp] theorem putCtx_slotOf (t : Tag) : (s.putCtx k v).slotOf t = s.slotOf t := rfl
@[simp] theorem putCtx_own (b : Band) : (s.putCtx k v).own b = s.own b := rfl
@[simp] theorem putCtx_neighbour (b : Band) : (s.putCtx k v).neighbour b = s.neighbour b := rfl
@[simp] theorem putCtx_acting : (s.putCtx k v).acting = s.acting := rfl

theorem putCtx_ctx (k' : Slot) : (s.putCtx k v).ctx k' = if k = k' then v else s.ctx k' := by
  simp only [State.putCtx, State.ctx, State.setContexts, Fin.getElem_fin, Vector.getElem_set, Fin.ext_iff]

@[simp] theorem putCtx_ctx_same : (s.putCtx k v).ctx k = v := by simp [putCtx_ctx]

theorem putCtx_ctx_other {k' : Slot} (h : k ≠ k') : (s.putCtx k v).ctx k' = s.ctx k' := by
  simp [putCtx_ctx, h]

end PutCtx

section PutTag
variable (s : State) (k : Tag) (v : TagEntry)

@[simp] theorem putTag_resetN : (s.putTag k v).resetN = s.resetN := rfl
@[simp] theorem putTag_ownStation : (s.putTag k v).ownStation = s.ownStation := rfl
@[simp] theorem putTag_profile : (s.putTag k v).profile = s.profile := rfl
@[simp] theorem putTag_station : (s.putTag k v).station = s.station := rfl
@[simp] theorem putTag_resume : (s.putTag k v).resume = s.resume := rfl
@[simp] theorem putTag_listening : (s.putTag k v).listening = s.listening := rfl
@[simp] theorem putTag_resetSeq : (s.putTag k v).resetSeq = s.resetSeq := rfl
@[simp] theorem putTag_interval : (s.putTag k v).interval = s.interval := rfl
@[simp] theorem putTag_synced : (s.putTag k v).synced = s.synced := rfl
@[simp] theorem putTag_contexts : (s.putTag k v).contexts = s.contexts := rfl
@[simp] theorem putTag_tagPtr : (s.putTag k v).tagPtr = s.tagPtr := rfl
@[simp] theorem putTag_refreshPtr : (s.putTag k v).refreshPtr = s.refreshPtr := rfl
@[simp] theorem putTag_claims : (s.putTag k v).claims = s.claims := rfl
@[simp] theorem putTag_farDemand : (s.putTag k v).farDemand = s.farDemand := rfl
@[simp] theorem putTag_spacing : (s.putTag k v).spacing = s.spacing := rfl
@[simp] theorem putTag_neighbours : (s.putTag k v).neighbours = s.neighbours := rfl
@[simp] theorem putTag_cause : (s.putTag k v).cause = s.cause := rfl
@[simp] theorem putTag_inFlight : (s.putTag k v).inFlight = s.inFlight := rfl
@[simp] theorem putTag_flight : (s.putTag k v).flight = s.flight := rfl
@[simp] theorem putTag_placementsDue : (s.putTag k v).placementsDue = s.placementsDue := rfl
@[simp] theorem putTag_fallbackPtr : (s.putTag k v).fallbackPtr = s.fallbackPtr := rfl
@[simp] theorem putTag_records : (s.putTag k v).records = s.records := rfl
@[simp] theorem putTag_openIntervals : (s.putTag k v).openIntervals = s.openIntervals := rfl
@[simp] theorem putTag_register : (s.putTag k v).register = s.register := rfl
@[simp] theorem putTag_deadlinesDue : (s.putTag k v).deadlinesDue = s.deadlinesDue := rfl
@[simp] theorem putTag_closesDue : (s.putTag k v).closesDue = s.closesDue := rfl
@[simp] theorem putTag_txQueue : (s.putTag k v).txQueue = s.txQueue := rfl
@[simp] theorem putTag_rxBuffer : (s.putTag k v).rxBuffer = s.rxBuffer := rfl
@[simp] theorem putTag_flags : (s.putTag k v).flags = s.flags := rfl
@[simp] theorem putTag_agenda : (s.putTag k v).agenda = s.agenda := rfl
@[simp] theorem putTag_freeCount : (s.putTag k v).freeCount = s.freeCount := rfl
@[simp] theorem putTag_pending : (s.putTag k v).pending = s.pending := rfl
@[simp] theorem putTag_ctx (i : Slot) : (s.putTag k v).ctx i = s.ctx i := rfl
@[simp] theorem putTag_own (b : Band) : (s.putTag k v).own b = s.own b := rfl
@[simp] theorem putTag_neighbour (b : Band) : (s.putTag k v).neighbour b = s.neighbour b := rfl
@[simp] theorem putTag_acting : (s.putTag k v).acting = s.acting := rfl

theorem putTag_tagEntry (k' : Tag) : (s.putTag k v).tagEntry k' = if k = k' then v else s.tagEntry k' := by
  simp only [State.putTag, State.tagEntry, State.setTags, Fin.getElem_fin, Vector.getElem_set, Fin.ext_iff]

@[simp] theorem putTag_tagEntry_same : (s.putTag k v).tagEntry k = v := by simp [putTag_tagEntry]

theorem putTag_tagEntry_other {k' : Tag} (h : k ≠ k') : (s.putTag k v).tagEntry k' = s.tagEntry k' := by
  simp [putTag_tagEntry, h]

end PutTag

section PutOwn
variable (s : State) (k : Band) (v : OwnClaim)

@[simp] theorem putOwn_resetN : (s.putOwn k v).resetN = s.resetN := rfl
@[simp] theorem putOwn_ownStation : (s.putOwn k v).ownStation = s.ownStation := rfl
@[simp] theorem putOwn_profile : (s.putOwn k v).profile = s.profile := rfl
@[simp] theorem putOwn_station : (s.putOwn k v).station = s.station := rfl
@[simp] theorem putOwn_resume : (s.putOwn k v).resume = s.resume := rfl
@[simp] theorem putOwn_listening : (s.putOwn k v).listening = s.listening := rfl
@[simp] theorem putOwn_resetSeq : (s.putOwn k v).resetSeq = s.resetSeq := rfl
@[simp] theorem putOwn_interval : (s.putOwn k v).interval = s.interval := rfl
@[simp] theorem putOwn_synced : (s.putOwn k v).synced = s.synced := rfl
@[simp] theorem putOwn_contexts : (s.putOwn k v).contexts = s.contexts := rfl
@[simp] theorem putOwn_tags : (s.putOwn k v).tags = s.tags := rfl
@[simp] theorem putOwn_tagPtr : (s.putOwn k v).tagPtr = s.tagPtr := rfl
@[simp] theorem putOwn_refreshPtr : (s.putOwn k v).refreshPtr = s.refreshPtr := rfl
@[simp] theorem putOwn_farDemand : (s.putOwn k v).farDemand = s.farDemand := rfl
@[simp] theorem putOwn_spacing : (s.putOwn k v).spacing = s.spacing := rfl
@[simp] theorem putOwn_neighbours : (s.putOwn k v).neighbours = s.neighbours := rfl
@[simp] theorem putOwn_cause : (s.putOwn k v).cause = s.cause := rfl
@[simp] theorem putOwn_inFlight : (s.putOwn k v).inFlight = s.inFlight := rfl
@[simp] theorem putOwn_flight : (s.putOwn k v).flight = s.flight := rfl
@[simp] theorem putOwn_placementsDue : (s.putOwn k v).placementsDue = s.placementsDue := rfl
@[simp] theorem putOwn_fallbackPtr : (s.putOwn k v).fallbackPtr = s.fallbackPtr := rfl
@[simp] theorem putOwn_records : (s.putOwn k v).records = s.records := rfl
@[simp] theorem putOwn_openIntervals : (s.putOwn k v).openIntervals = s.openIntervals := rfl
@[simp] theorem putOwn_register : (s.putOwn k v).register = s.register := rfl
@[simp] theorem putOwn_deadlinesDue : (s.putOwn k v).deadlinesDue = s.deadlinesDue := rfl
@[simp] theorem putOwn_closesDue : (s.putOwn k v).closesDue = s.closesDue := rfl
@[simp] theorem putOwn_txQueue : (s.putOwn k v).txQueue = s.txQueue := rfl
@[simp] theorem putOwn_rxBuffer : (s.putOwn k v).rxBuffer = s.rxBuffer := rfl
@[simp] theorem putOwn_flags : (s.putOwn k v).flags = s.flags := rfl
@[simp] theorem putOwn_agenda : (s.putOwn k v).agenda = s.agenda := rfl
@[simp] theorem putOwn_freeCount : (s.putOwn k v).freeCount = s.freeCount := rfl
@[simp] theorem putOwn_pending : (s.putOwn k v).pending = s.pending := rfl
@[simp] theorem putOwn_ctx (i : Slot) : (s.putOwn k v).ctx i = s.ctx i := rfl
@[simp] theorem putOwn_tagEntry (t : Tag) : (s.putOwn k v).tagEntry t = s.tagEntry t := rfl
@[simp] theorem putOwn_slotOf (t : Tag) : (s.putOwn k v).slotOf t = s.slotOf t := rfl
@[simp] theorem putOwn_neighbour (b : Band) : (s.putOwn k v).neighbour b = s.neighbour b := rfl
@[simp] theorem putOwn_acting : (s.putOwn k v).acting = s.acting := rfl

theorem putOwn_own (k' : Band) : (s.putOwn k v).own k' = if k = k' then v else s.own k' := by
  simp only [State.putOwn, State.own, State.setClaims, Fin.getElem_fin, Vector.getElem_set, Fin.ext_iff]

@[simp] theorem putOwn_own_same : (s.putOwn k v).own k = v := by simp [putOwn_own]

theorem putOwn_own_other {k' : Band} (h : k ≠ k') : (s.putOwn k v).own k' = s.own k' := by
  simp [putOwn_own, h]

end PutOwn

section PutNeighbour
variable (s : State) (k : Band) (v : Option PeerEntry)

@[simp] theorem putNeighbour_resetN : (s.putNeighbour k v).resetN = s.resetN := rfl
@[simp] theorem putNeighbour_ownStation : (s.putNeighbour k v).ownStation = s.ownStation := rfl
@[simp] theorem putNeighbour_profile : (s.putNeighbour k v).profile = s.profile := rfl
@[simp] theorem putNeighbour_station : (s.putNeighbour k v).station = s.station := rfl
@[simp] theorem putNeighbour_resume : (s.putNeighbour k v).resume = s.resume := rfl
@[simp] theorem putNeighbour_listening : (s.putNeighbour k v).listening = s.listening := rfl
@[simp] theorem putNeighbour_resetSeq : (s.putNeighbour k v).resetSeq = s.resetSeq := rfl
@[simp] theorem putNeighbour_interval : (s.putNeighbour k v).interval = s.interval := rfl
@[simp] theorem putNeighbour_synced : (s.putNeighbour k v).synced = s.synced := rfl
@[simp] theorem putNeighbour_contexts : (s.putNeighbour k v).contexts = s.contexts := rfl
@[simp] theorem putNeighbour_tags : (s.putNeighbour k v).tags = s.tags := rfl
@[simp] theorem putNeighbour_tagPtr : (s.putNeighbour k v).tagPtr = s.tagPtr := rfl
@[simp] theorem putNeighbour_refreshPtr : (s.putNeighbour k v).refreshPtr = s.refreshPtr := rfl
@[simp] theorem putNeighbour_claims : (s.putNeighbour k v).claims = s.claims := rfl
@[simp] theorem putNeighbour_farDemand : (s.putNeighbour k v).farDemand = s.farDemand := rfl
@[simp] theorem putNeighbour_spacing : (s.putNeighbour k v).spacing = s.spacing := rfl
@[simp] theorem putNeighbour_cause : (s.putNeighbour k v).cause = s.cause := rfl
@[simp] theorem putNeighbour_inFlight : (s.putNeighbour k v).inFlight = s.inFlight := rfl
@[simp] theorem putNeighbour_flight : (s.putNeighbour k v).flight = s.flight := rfl
@[simp] theorem putNeighbour_placementsDue : (s.putNeighbour k v).placementsDue = s.placementsDue := rfl
@[simp] theorem putNeighbour_fallbackPtr : (s.putNeighbour k v).fallbackPtr = s.fallbackPtr := rfl
@[simp] theorem putNeighbour_records : (s.putNeighbour k v).records = s.records := rfl
@[simp] theorem putNeighbour_openIntervals : (s.putNeighbour k v).openIntervals = s.openIntervals := rfl
@[simp] theorem putNeighbour_register : (s.putNeighbour k v).register = s.register := rfl
@[simp] theorem putNeighbour_deadlinesDue : (s.putNeighbour k v).deadlinesDue = s.deadlinesDue := rfl
@[simp] theorem putNeighbour_closesDue : (s.putNeighbour k v).closesDue = s.closesDue := rfl
@[simp] theorem putNeighbour_txQueue : (s.putNeighbour k v).txQueue = s.txQueue := rfl
@[simp] theorem putNeighbour_rxBuffer : (s.putNeighbour k v).rxBuffer = s.rxBuffer := rfl
@[simp] theorem putNeighbour_flags : (s.putNeighbour k v).flags = s.flags := rfl
@[simp] theorem putNeighbour_agenda : (s.putNeighbour k v).agenda = s.agenda := rfl
@[simp] theorem putNeighbour_freeCount : (s.putNeighbour k v).freeCount = s.freeCount := rfl
@[simp] theorem putNeighbour_pending : (s.putNeighbour k v).pending = s.pending := rfl
@[simp] theorem putNeighbour_ctx (i : Slot) : (s.putNeighbour k v).ctx i = s.ctx i := rfl
@[simp] theorem putNeighbour_tagEntry (t : Tag) : (s.putNeighbour k v).tagEntry t = s.tagEntry t := rfl
@[simp] theorem putNeighbour_slotOf (t : Tag) : (s.putNeighbour k v).slotOf t = s.slotOf t := rfl
@[simp] theorem putNeighbour_own (b : Band) : (s.putNeighbour k v).own b = s.own b := rfl
@[simp] theorem putNeighbour_acting : (s.putNeighbour k v).acting = s.acting := rfl

theorem putNeighbour_neighbour (k' : Band) : (s.putNeighbour k v).neighbour k' = if k = k' then v else s.neighbour k' := by
  simp only [State.putNeighbour, State.neighbour, State.setNeighbours, Fin.getElem_fin, Vector.getElem_set, Fin.ext_iff]

@[simp] theorem putNeighbour_neighbour_same : (s.putNeighbour k v).neighbour k = v := by simp [putNeighbour_neighbour]

theorem putNeighbour_neighbour_other {k' : Band} (h : k ≠ k') : (s.putNeighbour k v).neighbour k' = s.neighbour k' := by
  simp [putNeighbour_neighbour, h]

end PutNeighbour

/-- The slot a tag names after a write of one tag entry. -/
theorem putTag_slotOf (s : State) (k t : Tag) (v : TagEntry) :
    (s.putTag k v).slotOf t = if k = t then v.slot else s.slotOf t := by
  simp only [State.slotOf, putTag_tagEntry]; split <;> rfl

end Sys2Proof.Machine
end

