-- ==== Sys2Proof/Laws/Keeps.lean ====
section
/-! SUPPORT. Frames compose (`Keeps`, Safety.lean), and each update keeps every field but its own. -/
namespace Sys2Proof.Machine

theorem Keeps.refl (l : List Field) (s : State) : Keeps l s s := by
  intro f _; cases f <;> rfl

theorem State.agree_trans {s t u : State} {f : Field} (h : s.agree t f) (h' : t.agree u f) : s.agree u f := by
  cases f <;> exact Eq.trans h' h

theorem Keeps.trans {l : List Field} {s t u : State} (h : Keeps l s t) (h' : Keeps l t u) : Keeps l s u :=
  fun f hf => State.agree_trans (h f hf) (h' f hf)

theorem Keeps.mono {l l' : List Field} {s t : State} (h : Keeps l s t) (hl : l ⊆ l') : Keeps l' s t :=
  fun f hf => h f fun hm => hf (hl hm)

/-- A frame, then a narrower one. -/
theorem Keeps.andThen {l l' : List Field} {s t u : State} (h : Keeps l s t) (h' : Keeps l' t u) (hl : l' ⊆ l) :
    Keeps l s u := h.trans (h'.mono hl)

/-- A fold of operations with one frame has that frame. -/
theorem Keeps.foldl {α : Type} {l : List Field} {f : State → α → State} (h : ∀ s a, Keeps l s (f s a))
    (xs : List α) (s : State) : Keeps l s (xs.foldl f s) := by
  induction xs generalizing s with
  | nil => exact Keeps.refl l s
  | cons a xs ih => exact (h s a).trans (ih (f s a))

theorem Keeps.acting {l : List Field} {s t : State} (h : Keeps l s t) (hl : Field.station ∉ l) :
    t.acting = s.acting := by
  have e : t.station = s.station := h .station hl
  simp only [State.acting, e]

theorem setResetN_keeps (s : State) (v) : Keeps [.resetN] s (s.setResetN v) := by
  intro f h; cases f <;> first | rfl | exact absurd (List.mem_singleton.mpr rfl) h

theorem setOwnStation_keeps (s : State) (v) : Keeps [.ownStation] s (s.setOwnStation v) := by
  intro f h; cases f <;> first | rfl | exact absurd (List.mem_singleton.mpr rfl) h

theorem setProfile_keeps (s : State) (v) : Keeps [.profile] s (s.setProfile v) := by
  intro f h; cases f <;> first | rfl | exact absurd (List.mem_singleton.mpr rfl) h

theorem setStation_keeps (s : State) (v) : Keeps [.station] s (s.setStation v) := by
  intro f h; cases f <;> first | rfl | exact absurd (List.mem_singleton.mpr rfl) h

theorem setResume_keeps (s : State) (v) : Keeps [.resume] s (s.setResume v) := by
  intro f h; cases f <;> first | rfl | exact absurd (List.mem_singleton.mpr rfl) h

theorem setListening_keeps (s : State) (v) : Keeps [.listening] s (s.setListening v) := by
  intro f h; cases f <;> first | rfl | exact absurd (List.mem_singleton.mpr rfl) h

theorem setResetSeq_keeps (s : State) (v) : Keeps [.resetSeq] s (s.setResetSeq v) := by
  intro f h; cases f <;> first | rfl | exact absurd (List.mem_singleton.mpr rfl) h

theorem setInterval_keeps (s : State) (v) : Keeps [.interval] s (s.setInterval v) := by
  intro f h; cases f <;> first | rfl | exact absurd (List.mem_singleton.mpr rfl) h

theorem setSynced_keeps (s : State) (v) : Keeps [.synced] s (s.setSynced v) := by
  intro f h; cases f <;> first | rfl | exact absurd (List.mem_singleton.mpr rfl) h

theorem setContexts_keeps (s : State) (v) : Keeps [.contexts] s (s.setContexts v) := by
  intro f h; cases f <;> first | rfl | exact absurd (List.mem_singleton.mpr rfl) h

theorem setTags_keeps (s : State) (v) : Keeps [.tags] s (s.setTags v) := by
  intro f h; cases f <;> first | rfl | exact absurd (List.mem_singleton.mpr rfl) h

theorem setTagPtr_keeps (s : State) (v) : Keeps [.tagPtr] s (s.setTagPtr v) := by
  intro f h; cases f <;> first | rfl | exact absurd (List.mem_singleton.mpr rfl) h

theorem setRefreshPtr_keeps (s : State) (v) : Keeps [.refreshPtr] s (s.setRefreshPtr v) := by
  intro f h; cases f <;> first | rfl | exact absurd (List.mem_singleton.mpr rfl) h

theorem setClaims_keeps (s : State) (v) : Keeps [.claims] s (s.setClaims v) := by
  intro f h; cases f <;> first | rfl | exact absurd (List.mem_singleton.mpr rfl) h

theorem setFarDemand_keeps (s : State) (v) : Keeps [.farDemand] s (s.setFarDemand v) := by
  intro f h; cases f <;> first | rfl | exact absurd (List.mem_singleton.mpr rfl) h

theorem setSpacing_keeps (s : State) (v) : Keeps [.spacing] s (s.setSpacing v) := by
  intro f h; cases f <;> first | rfl | exact absurd (List.mem_singleton.mpr rfl) h

theorem setNeighbours_keeps (s : State) (v) : Keeps [.neighbours] s (s.setNeighbours v) := by
  intro f h; cases f <;> first | rfl | exact absurd (List.mem_singleton.mpr rfl) h

theorem setCause_keeps (s : State) (v) : Keeps [.cause] s (s.setCause v) := by
  intro f h; cases f <;> first | rfl | exact absurd (List.mem_singleton.mpr rfl) h

theorem setInFlight_keeps (s : State) (v) : Keeps [.inFlight] s (s.setInFlight v) := by
  intro f h; cases f <;> first | rfl | exact absurd (List.mem_singleton.mpr rfl) h

theorem setFlight_keeps (s : State) (v) : Keeps [.flight] s (s.setFlight v) := by
  intro f h; cases f <;> first | rfl | exact absurd (List.mem_singleton.mpr rfl) h

theorem setPlacementsDue_keeps (s : State) (v) : Keeps [.placementsDue] s (s.setPlacementsDue v) := by
  intro f h; cases f <;> first | rfl | exact absurd (List.mem_singleton.mpr rfl) h

theorem setFallbackPtr_keeps (s : State) (v) : Keeps [.fallbackPtr] s (s.setFallbackPtr v) := by
  intro f h; cases f <;> first | rfl | exact absurd (List.mem_singleton.mpr rfl) h

theorem setRecords_keeps (s : State) (v) : Keeps [.records] s (s.setRecords v) := by
  intro f h; cases f <;> first | rfl | exact absurd (List.mem_singleton.mpr rfl) h

theorem setOpenIntervals_keeps (s : State) (v) : Keeps [.openIntervals] s (s.setOpenIntervals v) := by
  intro f h; cases f <;> first | rfl | exact absurd (List.mem_singleton.mpr rfl) h

theorem setRegister_keeps (s : State) (v) : Keeps [.register] s (s.setRegister v) := by
  intro f h; cases f <;> first | rfl | exact absurd (List.mem_singleton.mpr rfl) h

theorem setDeadlinesDue_keeps (s : State) (v) : Keeps [.deadlinesDue] s (s.setDeadlinesDue v) := by
  intro f h; cases f <;> first | rfl | exact absurd (List.mem_singleton.mpr rfl) h

theorem setClosesDue_keeps (s : State) (v) : Keeps [.closesDue] s (s.setClosesDue v) := by
  intro f h; cases f <;> first | rfl | exact absurd (List.mem_singleton.mpr rfl) h

theorem setTxQueue_keeps (s : State) (v) : Keeps [.txQueue] s (s.setTxQueue v) := by
  intro f h; cases f <;> first | rfl | exact absurd (List.mem_singleton.mpr rfl) h

theorem setRxBuffer_keeps (s : State) (v) : Keeps [.rxBuffer] s (s.setRxBuffer v) := by
  intro f h; cases f <;> first | rfl | exact absurd (List.mem_singleton.mpr rfl) h

theorem setFlags_keeps (s : State) (v) : Keeps [.flags] s (s.setFlags v) := by
  intro f h; cases f <;> first | rfl | exact absurd (List.mem_singleton.mpr rfl) h

theorem setAgenda_keeps (s : State) (v) : Keeps [.agenda] s (s.setAgenda v) := by
  intro f h; cases f <;> first | rfl | exact absurd (List.mem_singleton.mpr rfl) h

theorem setFreeCount_keeps (s : State) (v) : Keeps [.freeCount] s (s.setFreeCount v) := by
  intro f h; cases f <;> first | rfl | exact absurd (List.mem_singleton.mpr rfl) h

theorem setPending_keeps (s : State) (v) : Keeps [.pending] s (s.setPending v) := by
  intro f h; cases f <;> first | rfl | exact absurd (List.mem_singleton.mpr rfl) h

theorem putCtx_keeps (s : State) (i : Slot) (c : Context) : Keeps [.contexts] s (s.putCtx i c) := setContexts_keeps s _

theorem putTag_keeps (s : State) (t : Tag) (e : TagEntry) : Keeps [.tags] s (s.putTag t e) := setTags_keeps s _

theorem putOwn_keeps (s : State) (b : Band) (c : OwnClaim) : Keeps [.claims] s (s.putOwn b c) := setClaims_keeps s _

theorem putNeighbour_keeps (s : State) (b : Band) (e : Option PeerEntry) : Keeps [.neighbours] s (s.putNeighbour b e) :=
  setNeighbours_keeps s _

end Sys2Proof.Machine
end

