-- ==== Sys2Proof/Laws/Effects.lean ====
section
/-! SUPPORT. What each shared operation can change: one lemma per operation, as a frame (`Keeps`), and beside it what the
fields it writes hold where the rules give that in one line. A proof about any other field cites the frame. -/
namespace Sys2Proof.Machine

/-! ### Condition unit -/

theorem queueAlert_keeps {s t : State} (h : s.queueAlert = some t) : Keeps [.txQueue] s t := by
  unfold State.queueAlert at h
  split at h
  · rw [← Option.some.inj h]; exact setTxQueue_keeps s _
  · rw [← Option.some.inj h]; exact setTxQueue_keeps s _
  · cases h

theorem offerAlert_keeps (s : State) : Keeps [.flags, .txQueue] s (offerAlert s) := by
  unfold offerAlert
  have flag : Keeps [.flags, .txQueue] s (s.setFlag .txFail) := (setFlags_keeps s _).mono (by decide)
  split
  · split
    · next h => exact (queueAlert_keeps h).mono (by decide)
    · split
      · exact Keeps.refl _ s
      · dsimp only
        split
        · cases h : (s.setFlag .txFail).queueAlert with
          | none => exact flag
          | some t => exact flag.andThen (queueAlert_keeps h) (by decide)
        · exact flag
  · exact Keeps.refl _ s

/-- Raising a condition changes nothing but the flags and the transmit queue. -/
theorem raise_keeps (c : Condition) (s : State) : Keeps [.flags, .txQueue] s (raise c s) := by
  unfold raise
  have flag : Keeps [.flags, .txQueue] s (s.setFlag c) := (setFlags_keeps s _).mono (by decide)
  split
  · exact Keeps.refl _ s
  · dsimp only
    split
    · exact flag.trans (offerAlert_keeps _)
    · exact flag

/-- Offering an ALERT sets at most TX_FAIL. -/
theorem offerAlert_flags (s : State) :
    (offerAlert s).flags = s.flags ∨ (offerAlert s).flags = s.flags ||| Condition.txFail.bit := by
  unfold offerAlert
  split
  · split
    · next h => exact .inl (queueAlert_keeps h .flags (by decide))
    · split
      · exact .inl rfl
      · dsimp only
        split
        · cases h : (s.setFlag .txFail).queueAlert with
          | none => exact .inr rfl
          | some t => exact .inr (queueAlert_keeps h .flags (by decide))
        · exact .inr rfl
  · exact .inl rfl

theorem bit_getLsbD (c d : Condition) : c.bit.getLsbD d.num = decide (c = d) := by
  cases c <;> cases d <;> rfl

/-- A set flag is set, and stays set under any raise. -/
theorem raise_raised (c d : Condition) (s : State) (h : c = d ∨ s.raised d = true) : (raise c s).raised d = true := by
  have flag : (s.setFlag c).raised d = true := by
    simp only [State.raised, State.setFlag, setFlags_flags, BitVec.getLsbD_or, bit_getLsbD, Bool.or_eq_true,
      decide_eq_true_eq] at *
    tauto
  unfold raise
  split
  · next hr => rcases h with rfl | h <;> assumption
  · dsimp only
    split
    · rcases offerAlert_flags (s.setFlag c) with e | e
      · simpa only [State.raised, e] using flag
      · simp only [State.raised, e, BitVec.getLsbD_or, Bool.or_eq_true] at *
        exact .inl flag
    · exact flag

/-- A raise sets its flag, and at most TX_FAIL beside it (R158, R167, R168). -/
theorem raise_flags (c : Condition) (s : State) :
    (raise c s).flags = s.flags ||| c.bit ∨ (raise c s).flags = s.flags ||| c.bit ||| Condition.txFail.bit := by
  unfold raise
  split
  · next h =>
    left
    apply BitVec.eq_of_getLsbD_eq
    intro i hi
    simp only [State.raised] at h
    rw [BitVec.getLsbD_or]
    by_cases e : i = c.num
    · subst e; simp [h]
    · have : (c.bit).getLsbD i = false := by
        cases c <;> simp_all [Condition.bit, Condition.num] <;> (interval_cases i <;> simp_all)
      simp [this]
  · dsimp only
    split
    · exact offerAlert_flags (s.setFlag c)
    · exact .inl rfl

/-- A raise of a set flag has no further effect. -/
theorem raise_of_raised {c : Condition} {s : State} (h : s.raised c = true) : raise c s = s := by
  simp [raise, h]

/-- A raise of a clear flag that is not enabled sets the flag alone. -/
theorem raise_of_disabled {c : Condition} {s : State} (h : s.enabled c = false) (h' : s.raised c = false) :
    raise c s = s.setFlag c := by
  have : (s.setFlag c).enabled c = false := h
  simp [raise, h', this]

/-- A raise of a clear, enabled flag with room in the queue sets the flag and queues one ALERT. -/
theorem raise_of_enabled {c : Condition} {s : State} (h : s.enabled c = true) (h' : s.raised c = false)
    (ha : s.acting = true) (hq : s.txQueue.length < 24) :
    raise c s = (s.setFlag c).setTxQueue (s.txQueue ++ [(s.setFlag c).alertTelegram]) := by
  have he : (s.setFlag c).enabled c = true := h
  have ha' : (s.setFlag c).acting = true := ha
  have hq' : (s.setFlag c).txQueue.length < 24 := hq
  simp only [raise, h', he, offerAlert, ha', State.queueAlert, admitToQueue, hq']
  rfl

/-! ### Record list -/

theorem restoreBits_keeps (s : State) (r : Record) : Keeps [.contexts] s (restoreBits s r) := by
  unfold restoreBits; split
  · exact Keeps.refl _ s
  · exact putCtx_keeps s _ _

/-- A rollback changes contexts and the record list. -/
theorem rollbackWhere_keeps (p : Record → Bool) (s : State) : Keeps [.contexts, .records] s (rollbackWhere p s) :=
  ((Keeps.foldl restoreBits_keeps (s.records.filter p) s).mono (by decide)).andThen (setRecords_keeps _ _) (by decide)

/-- A rollback removes exactly the records it names. -/
@[simp] theorem rollbackWhere_records (p : Record → Bool) (s : State) :
    (rollbackWhere p s).records = s.records.filter fun r => !p r := by simp [rollbackWhere]

theorem updateRegister_keeps (s : State) (t : Interval) (f : RegisterEntry → RegisterEntry) :
    Keeps [.register] s (s.updateRegister t f) := setRegister_keeps s _

theorem listSent_keeps (t : Interval) (n : Nat) (s : State) : Keeps [.register] s (listSent t n s) := by
  unfold listSent; split
  · exact updateRegister_keeps s _ _
  · exact Keeps.refl _ s

theorem listDropped_keeps (t : Interval) (n : Nat) (s : State) :
    Keeps [.contexts, .records, .register] s (listDropped t n s) := by
  unfold listDropped; split
  · exact ((updateRegister_keeps s t _).mono (by decide)).andThen (rollbackWhere_keeps _ _) (by decide)
  · exact Keeps.refl _ s

theorem listWithdrawn_keeps (t : Interval) (n : Nat) (s : State) :
    Keeps [.contexts, .records, .register, .flags, .txQueue] s (listWithdrawn t n s) := by
  unfold listWithdrawn; split
  · have rolled : Keeps [.contexts, .records, .register, .flags, .txQueue] s (rollbackWhere (·.carriedBy t n)
        (s.updateRegister t fun e => { e.mark n .withdrawn with late := true })) :=
      ((updateRegister_keeps s t _).mono (by decide)).andThen (rollbackWhere_keeps _ _) (by decide)
    dsimp only
    split
    · exact rolled
    · exact rolled.andThen (raise_keeps _ _) (by decide)
  · exact Keeps.refl _ s

theorem deadline_keeps (t : Interval) (s : State) :
    Keeps [.contexts, .records, .register, .flags, .txQueue] s (deadline t s) := by
  unfold deadline
  dsimp only
  split
  · exact (setTxQueue_keeps s _).mono (by decide)
  · exact ((((setTxQueue_keeps s _).mono (by decide)).andThen (updateRegister_keeps _ t _) (by decide)).andThen
      (rollbackWhere_keeps _ _) (by decide)).andThen (raise_keeps _ _) (by decide)

theorem orphanRecords_keeps (i : Slot) (t : Tag) (s : State) : Keeps [.records] s (orphanRecords i t s) :=
  setRecords_keeps s _

theorem settleRecord_keeps (cause : CloseCause) (s : State) (r : Record) :
    Keeps [.contexts] s (settleRecord cause s r) := by
  unfold settleRecord; split
  · exact Keeps.refl _ s
  · exact putCtx_keeps s _ _

theorem dropOpen_keeps (s : State) (t : Interval) (d : Direction) :
    Keeps [.openIntervals, .register] s (s.dropOpen t d) :=
  ((setOpenIntervals_keeps s _).mono (by decide)).andThen (setRegister_keeps _ _) (by decide)

/-- A close changes contexts, records, open intervals and the register. -/
theorem closeInterval_keeps (t : Interval) (d : Direction) (cause : CloseCause) (s : State) :
    Keeps [.contexts, .records, .openIntervals, .register] s (closeInterval t d cause s) := by
  unfold closeInterval
  dsimp only
  have written : Keeps [.contexts, .records, .openIntervals, .register] s (s.writeCause t d cause) :=
    (setOpenIntervals_keeps s _).mono (by decide)
  exact (((written.andThen (Keeps.foldl (settleRecord_keeps cause) (s.records.filter (·.inClose t d)) _)
    (by decide)).andThen (setContexts_keeps _ _) (by decide)).andThen (setRecords_keeps _ _) (by decide)).andThen
      (dropOpen_keeps _ t d) (by decide)

/-- A close removes exactly the records of its interval and direction. -/
@[simp] theorem closeInterval_records (t : Interval) (d : Direction) (cause : CloseCause) (s : State) :
    (closeInterval t d cause s).records = s.records.filter fun r => !r.inClose t d := by
  simp [closeInterval, State.dropOpen]

theorem timeoutClose_keeps (t : Interval) (d : Direction) (s : State) :
    Keeps [.contexts, .records, .openIntervals, .register, .flags, .txQueue] s (timeoutClose t d s) := by
  unfold timeoutClose
  split
  · dsimp only
    have closed : Keeps [.contexts, .records, .openIntervals, .register, .flags, .txQueue] s
        (closeInterval t d .timeout s) := (closeInterval_keeps t d .timeout s).mono (by decide)
    split
    · exact closed.andThen (raise_keeps _ _) (by decide)
    · exact closed
  · exact Keeps.refl _ s

theorem applyUsage_keeps (t : Interval) (d : Direction) (s : State) (e : Tag × Nat) :
    Keeps [.records] s (applyUsage t d s e) := setRecords_keeps s _

theorem takeUsage_keeps (u : UsageReport) (s : State) :
    Keeps [.contexts, .records, .openIntervals, .register] s (takeUsage u s) := by
  unfold takeUsage
  split
  · have applied : Keeps [.contexts, .records, .openIntervals, .register] s
        (u.entries.foldl (applyUsage u.interval u.dir) s) :=
      (Keeps.foldl (applyUsage_keeps u.interval u.dir) u.entries s).mono (by decide)
    dsimp only
    split
    · exact applied.trans (closeInterval_keeps _ _ _ _)
    · exact applied
  · exact Keeps.refl _ s

theorem returnBits_keeps (s : State) (r : Record) : Keeps [.contexts] s (returnBits s r) := by
  unfold returnBits; split
  · exact Keeps.refl _ s
  · exact putCtx_keeps s _ _

theorem discardRecords_keeps (s : State) :
    Keeps [.contexts, .records, .openIntervals, .register, .deadlinesDue, .closesDue, .txQueue] s
      (discardRecords s) := by
  unfold discardRecords
  dsimp only
  have a := (Keeps.foldl returnBits_keeps s.records s).mono
    (l' := [.contexts, .records, .openIntervals, .register, .deadlinesDue, .closesDue, .txQueue]) (by decide)
  exact ((((((a.andThen (setContexts_keeps _ _) (by decide)).andThen (setRecords_keeps _ _) (by decide)).andThen
    (setOpenIntervals_keeps _ _) (by decide)).andThen (setRegister_keeps _ _) (by decide)).andThen
    (setDeadlinesDue_keeps _ _) (by decide)).andThen (setClosesDue_keeps _ _) (by decide)).andThen
    (setTxQueue_keeps _ _) (by decide)

/-! ### Offering telegrams -/

/-- What the fate of a telegram, or offering one, can change. -/
abbrev offering : List Field := [.flags, .txQueue, .claims, .contexts, .records, .register]

theorem claimGone_keeps (b : Band) (s : State) : Keeps [.claims] s (claimGone b s) := by
  unfold claimGone
  dsimp only
  split
  · exact Keeps.refl _ s
  · split <;> exact putOwn_keeps s _ _

theorem claimSent_keeps (b : Band) (s : State) : Keeps [.claims] s (claimSent b s) := by
  unfold claimSent
  dsimp only
  split
  · exact Keeps.refl _ s
  · split <;> exact putOwn_keeps s _ _

theorem reportDropped_keeps (o : Owner) (s : State) :
    Keeps [.claims, .contexts, .records, .register] s (reportDropped o s) := by
  cases o with
  | claim b => exact (claimGone_keeps b s).mono (by decide)
  | grantList t n => exact (listDropped_keeps t n s).mono (by decide)
  | bandRelease _ _ => exact Keeps.refl _ s
  | unreported => exact Keeps.refl _ s
  | disowned => exact Keeps.refl _ s

theorem offer_keeps (t : TxTelegram) (s : State) : Keeps offering s (offer t s) := by
  unfold offer
  split
  · split
    · exact (setTxQueue_keeps s _).mono (by decide)
    · exact ((setTxQueue_keeps s _).mono (by decide)).andThen (reportDropped_keeps _ _) (by decide)
    · exact ((raise_keeps _ s).mono (by decide)).andThen (reportDropped_keeps _ _) (by decide)
  · exact Keeps.refl _ s

theorem offers_keeps (ts : List TxTelegram) (s : State) : Keeps offering s (ts.foldl (fun s x => offer x s) s) :=
  Keeps.foldl (fun s x => offer_keeps x s) ts s

/-- Offering a telegram to a queue with room puts it behind the others and changes nothing else (R157, R158). -/
theorem offer_room {t : TxTelegram} {s : State} (ha : s.acting = true) (hl : s.txQueue.length < 24) :
    offer t s = s.setTxQueue (s.txQueue ++ [t]) := by
  simp [offer, ha, admitToQueue, hl]

/-- In LOADING and HALTED an offered telegram is discarded (R161). -/
theorem offer_quiet {t : TxTelegram} {s : State} (ha : s.acting = false) : offer t s = s := by
  simp [offer, ha]

/-- Offering several telegrams to a queue with room for all. -/
theorem offers_room {ts : List TxTelegram} {s : State} (ha : s.acting = true)
    (hl : s.txQueue.length + ts.length ≤ 24) :
    ts.foldl (fun s x => offer x s) s = s.setTxQueue (s.txQueue ++ ts) := by
  induction ts generalizing s with
  | nil => simp [State.setTxQueue]
  | cons t ts ih =>
    have h1 : s.txQueue.length < 24 := by simp at hl; omega
    rw [List.foldl_cons, offer_room ha h1, ih (by simpa using ha) (by simp at hl ⊢; omega)]
    simp [State.setTxQueue]

theorem dropClaim_keeps (b : Band) (s : State) : Keeps [.txQueue] s (dropClaim b s) := setTxQueue_keeps s _

/-! ### Context table -/

/-- What a release can change. -/
abbrev releasing : List Field := [.flags, .txQueue, .claims, .contexts, .records, .register, .tags]

theorem releaseContext_keeps (i : Slot) (reason : ReleaseReason) (s : State) :
    Keeps releasing s (releaseContext i reason s) := by
  unfold releaseContext
  split
  · exact Keeps.refl _ s
  · next tag _ =>
    dsimp only
    have freed := ((((offer_keeps (telegram .releaseNotice s.profile.partner (releaseNoticePayload tag reason)
      .unreported) s).mono (l' := releasing) (by decide)).andThen (putTag_keeps _ tag ⟨none, 64⟩) (by decide)).andThen
      (orphanRecords_keeps i tag _) (by decide)).andThen (putCtx_keeps _ i Context.free) (by decide)
    split
    · exact freed.andThen (raise_keeps _ _) (by decide)
    · exact freed

theorem pulseSlot_keeps (i : Slot) (s : State) : Keeps releasing s (pulseSlot i s) := by
  unfold pulseSlot
  split
  · exact (putCtx_keeps s _ _).mono (by decide)
  · exact (putCtx_keeps s _ _).mono (by decide)
  · exact (putCtx_keeps s _ _).mono (by decide)
  · exact (putCtx_keeps s _ _).mono (by decide)
  · exact releaseContext_keeps _ _ _

theorem offerTagAssign_keeps (t : Tag) (id : Identity) (s : State) : Keeps offering s (offerTagAssign t id s) :=
  offer_keeps _ s

theorem offerAdmit_keeps (id : Identity) (q : Quality) (a : Interval) (s : State) :
    Keeps offering s (offerAdmit id q a s) := offer_keeps _ s

theorem admitContext_keeps (i : Slot) (t : Tag) (a : AttachReport) (s : State) :
    Keeps (.tagPtr :: releasing) s (admitContext i t a s) := by
  unfold admitContext
  dsimp only
  exact (((((putTag_keeps s _ _).mono (l' := .tagPtr :: releasing) (by decide)).andThen (setTagPtr_keeps _ _)
    (by decide)).andThen (putCtx_keeps _ _ _) (by decide)).andThen (offerTagAssign_keeps _ _ _) (by decide)).andThen
    (offerAdmit_keeps _ _ _ _) (by decide)

theorem refuseAttach_keeps (id : Identity) (reason : RefuseReason) (s : State) :
    Keeps offering s (refuseAttach id reason s) := by
  unfold refuseAttach
  dsimp only
  cases reason with
  | rangeOut => exact (offer_keeps _ s).andThen (raise_keeps _ _) (by decide)
  | tableFull => exact (offer_keeps _ s).andThen (raise_keeps _ _) (by decide)

theorem writeAndClassify_keeps (i : Slot) (c : Context) (s : State) :
    Keeps [.flags, .txQueue, .contexts] s (writeAndClassify i c s) := by
  unfold writeAndClassify
  dsimp only
  have written := (putCtx_keeps s i { c with reach := reachAfter s.profile c }).mono
    (l' := [.flags, .txQueue, .contexts]) (by decide)
  split
  · exact written
  · exact written.andThen (raise_keeps _ _) (by decide)

theorem takeAttach_keeps (a : AttachReport) (s : State) : Keeps (.tagPtr :: releasing) s (takeAttach a s) := by
  unfold takeAttach
  split
  · exact (refuseAttach_keeps _ _ s).mono (by decide)
  · split
    · next i _ =>
      dsimp only
      have written := (writeAndClassify_keeps i ((s.ctx i).reattached a) s).mono
        (l' := .tagPtr :: releasing) (by decide)
      split
      · exact written.andThen (offerTagAssign_keeps _ _ _) (by decide)
      · exact written
    · split
      · exact admitContext_keeps _ _ _ s
      · exact (refuseAttach_keeps _ _ s).mono (by decide)

theorem onTag_keeps {l : List Field} {t : Tag} {act : Slot → State → State} {s : State}
    (h : ∀ i, Keeps l s (act i s)) (hl : [Field.flags, Field.txQueue] ⊆ l) : Keeps l s (onTag t act s) := by
  unfold onTag
  split
  · exact h _
  · split
    · exact (raise_keeps _ s).mono hl
    · exact Keeps.refl _ s

theorem applyQuality_keeps (r : QualityReport) (i : Slot) (s : State) : Keeps releasing s (applyQuality r i s) := by
  unfold applyQuality
  dsimp only
  split
  · split
    · exact (writeAndClassify_keeps _ _ _).mono (by decide)
    · exact ((putCtx_keeps s _ _).mono (by decide)).trans (releaseContext_keeps _ _ _)
  · exact (writeAndClassify_keeps _ _ _).mono (by decide)

theorem applyRange_keeps (r : RangeReport) (i : Slot) (s : State) : Keeps releasing s (applyRange r i s) := by
  unfold applyRange
  dsimp only
  split
  · exact (writeAndClassify_keeps _ _ _).mono (by decide)
  · exact ((putCtx_keeps s _ _).mono (by decide)).trans (releaseContext_keeps _ _ _)

theorem applyBuffer_keeps (r : BufferReport) (i : Slot) (s : State) : Keeps [.contexts] s (applyBuffer r i s) :=
  putCtx_keeps s _ _

theorem takeAdmit_keeps (source : Station) (a : AdmitTelegram) (s : State) :
    Keeps releasing s (takeAdmit source a s) := by
  unfold takeAdmit
  split
  · exact Keeps.refl _ s
  · split
    · exact Keeps.refl _ s
    · dsimp only
      split
      · exact (offerAdmit_keeps _ _ _ s).mono (by decide)
      · exact releaseContext_keeps _ _ s

/-! ### Claim controller -/

theorem offerClaim_keeps (b : Band) (a : Interval) (s : State) : Keeps offering s (offerClaim b a s) := offer_keeps _ s

theorem offerBandRelease_keeps (b : Band) (q : Bool) (s : State) : Keeps offering s (offerBandRelease b q s) :=
  offer_keeps _ s

theorem reannounce_keeps (b : Band) (c : OwnClaim) (s : State) : Keeps offering s (reannounce b c s) := by
  unfold reannounce
  dsimp only
  exact ((putOwn_keeps s _ _).mono (by decide)).trans (offerClaim_keeps _ _ _)

theorem refreshBand_keeps (b : Band) (s : State) : Keeps offering s (refreshBand b s) := by
  unfold refreshBand
  dsimp only
  split
  · split
    · exact (putOwn_keeps s _ _).mono (by decide)
    · exact reannounce_keeps _ _ _
  · exact Keeps.refl _ s

theorem releaseBand_keeps (b : Band) (q : Bool) (c : OwnClaim) (s : State) : Keeps offering s (releaseBand b q c s) :=
  (((putOwn_keeps s _ _).mono (by decide)).andThen (dropClaim_keeps _ _) (by decide)).trans
    (offerBandRelease_keeps _ _ _)

theorem limitClaim_keeps (b : Band) (s : State) : Keeps [.claims, .txQueue] s (limitClaim b s) := by
  unfold limitClaim
  dsimp only
  split
  · exact Keeps.refl _ s
  · split
    · exact Keeps.refl _ s
    · have asked := (setTxQueue_keeps s (removeTelegrams (fun x => x.owner.isClaimOf b) TxTelegram.marked
        s.txQueue)).mono (l' := [.claims, .txQueue]) (by decide)
      split
      · exact asked.andThen (claimGone_keeps _ _) (by decide)
      · exact asked

theorem holdBand_keeps (b : Band) (s : State) : Keeps [.claims] s (holdBand b s) := by
  unfold holdBand
  dsimp only
  split
  · exact putOwn_keeps s _ _
  · exact Keeps.refl _ s

theorem settleBand_keeps (b : Band) (s : State) : Keeps [.claims] s (settleBand b s) := by
  unfold settleBand
  dsimp only
  split
  · exact putOwn_keeps s _ _
  · exact Keeps.refl _ s

theorem releaseIdle_keeps (b : Band) (s : State) : Keeps offering s (releaseIdle b s) := by
  unfold releaseIdle
  dsimp only
  split
  · exact releaseBand_keeps _ _ _ _
  · exact Keeps.refl _ s

/-- What a claim decision can change. -/
abbrev claiming : List Field := [.flags, .txQueue, .claims, .contexts, .records, .register, .spacing, .farDemand]

theorem decideClaim_keeps (s : State) : Keeps claiming s (decideClaim s) := by
  unfold decideClaim
  split
  · split
    · exact Keeps.refl _ s
    · dsimp only
      exact ((((putOwn_keeps s _ _).mono (l' := claiming) (by decide)).andThen (setSpacing_keeps _ _)
        (by decide)).andThen (setFarDemand_keeps _ _) (by decide)).andThen (offerClaim_keeps _ _ _) (by decide)
  · exact Keeps.refl _ s

theorem keepClaim_keeps (b : Band) (s : State) : Keeps offering s (keepClaim b s) := by
  unfold keepClaim
  dsimp only
  split
  · split
    · exact Keeps.refl _ s
    · split
      · exact (putOwn_keeps s _ _).mono (by decide)
      · exact reannounce_keeps _ _ _
  all_goals exact Keeps.refl _ s

/-- What a heard claim can change. -/
abbrev hearing : List Field := [.flags, .txQueue, .claims, .contexts, .records, .register, .neighbours]

theorem loseClaim_keeps (b : Band) (p : PeerEntry) (s : State) : Keeps hearing s (loseClaim b p s) := by
  unfold loseClaim
  dsimp only
  have recorded := ((raise_keeps .claimLost s).mono (l' := hearing) (by decide)).andThen
    (putNeighbour_keeps _ b (some p)) (by decide)
  split
  · exact (recorded.andThen (putOwn_keeps _ _ _) (by decide)).andThen (dropClaim_keeps _ _) (by decide)
  · exact recorded.andThen (releaseBand_keeps _ _ _ _) (by decide)
  · exact recorded
  · exact recorded

theorem recordPeer_keeps (b : Band) (p : PeerEntry) (s : State) : Keeps [.neighbours] s (recordPeer b p s) := by
  unfold recordPeer
  split
  · exact putNeighbour_keeps s _ _
  · split
    · exact putNeighbour_keeps s _ _
    · exact Keeps.refl _ s

theorem hearClaim_keeps (source : Station) (b : Band) (a : Interval) (s : State) :
    Keeps hearing s (hearClaim source b a s) := by
  unfold hearClaim
  dsimp only
  split
  · split
    · exact (keepClaim_keeps _ _).mono (by decide)
    · exact loseClaim_keeps _ _ _
  · exact (recordPeer_keeps _ _ _).mono (by decide)

theorem hearRelease_keeps (source : Station) (b : Band) (s : State) :
    Keeps [.neighbours] s (hearRelease source b s) := by
  unfold hearRelease
  split
  · exact Keeps.refl _ s
  · split
    · exact putNeighbour_keeps s _ _
    · exact Keeps.refl _ s

/-! ### Placement -/

theorem raiseArithmetic_keeps (c : Condition) (s : State) :
    Keeps [.inFlight, .flags, .txQueue] s (raiseArithmetic c s) :=
  ((setInFlight_keeps s _).mono (by decide)).andThen (raise_keeps _ _) (by decide)

theorem chooseEntries_keeps (s : State) : Keeps [.contexts, .refreshPtr] s (chooseEntries s).2 :=
  ((setContexts_keeps s _).mono (by decide)).andThen (setRefreshPtr_keeps _ _) (by decide)

theorem beginPlacement_keeps (t : Interval) (s : State) :
    Keeps [.contexts, .refreshPtr, .inFlight, .flags, .txQueue, .flight] s (beginPlacement t s) := by
  unfold beginPlacement
  dsimp only
  have begun := (setInFlight_keeps s 0).mono
    (l' := [.contexts, .refreshPtr, .inFlight, .flags, .txQueue, .flight]) (by decide)
  split
  · exact ((begun.andThen (raiseArithmetic_keeps .stale _) (by decide)).andThen (chooseEntries_keeps _)
      (by decide)).andThen (setFlight_keeps _ _) (by decide)
  · exact (begun.andThen (chooseEntries_keeps _) (by decide)).andThen (setFlight_keeps _ _) (by decide)

/-- What placing can change. -/
abbrev placing : List Field := [.contexts, .records, .flight, .inFlight, .flags, .txQueue, .fallbackPtr]

theorem recordGrant_keeps (t : Interval) (g : Grant) (n : Nat) (s : State) :
    Keeps [.contexts, .records] s (recordGrant t g n s) :=
  ((putCtx_keeps s _ _).mono (by decide)).andThen (setRecords_keeps _ _) (by decide)

theorem makeGrant_keeps (f : Flight) (d : Direction) (c : Candidate) (l : Lay) (n : Stage) (s : State) :
    Keeps [.contexts, .records, .flight] s (makeGrant f d c l n s) := by
  unfold makeGrant
  dsimp only
  split
  · exact ((recordGrant_keeps _ _ _ s).mono (by decide)).andThen (setFlight_keeps _ _) (by decide)
  · exact (setFlight_keeps s _).mono (by decide)

theorem stopPlacing_keeps (f : Flight) (s : State) : Keeps [.flight, .flags, .txQueue] s (stopPlacing f s) :=
  ((setFlight_keeps s _).mono (by decide)).andThen (raise_keeps _ _) (by decide)

/-- The state a move leaves, if it is a move. -/
def Move.state : Move → Option State
  | .quiet s => some s
  | .granted _ s => some s
  | .stopped _ s => some s
  | .ended => none

theorem engineMove_keeps {s t : State} (h : (engineMove s).state = some t) : Keeps placing s t := by
  unfold engineMove at h
  split at h
  · cases h
  · split at h
    · dsimp only [Move.state] at h
      rw [← Option.some.inj h]
      exact ((Keeps.foldl (fun s c => raiseArithmetic_keeps c s) _ s).mono (by decide)).andThen
        (setFlight_keeps _ _) (by decide)
    · rw [← Option.some.inj h]; exact (setFlight_keeps s _).mono (by decide)
    · split at h
      · rw [← Option.some.inj h]; exact (setFlight_keeps s _).mono (by decide)
      · split at h
        · rw [← Option.some.inj h]; exact (stopPlacing_keeps _ s).mono (by decide)
        · rw [← Option.some.inj h]; exact (makeGrant_keeps _ _ _ _ _ s).mono (by decide)
    · rw [← Option.some.inj h]; exact (setFlight_keeps s _).mono (by decide)
    · rw [← Option.some.inj h]; exact (setFlight_keeps s _).mono (by decide)
    · split at h
      · rw [← Option.some.inj h]; exact (setFlight_keeps s _).mono (by decide)
      · split at h
        · rw [← Option.some.inj h]; exact (setFlight_keeps s _).mono (by decide)
        · split at h
          · rw [← Option.some.inj h]; exact (stopPlacing_keeps _ s).mono (by decide)
          · rw [← Option.some.inj h]
            exact ((makeGrant_keeps _ _ _ _ _ s).mono (by decide)).andThen (setFallbackPtr_keeps _ _) (by decide)
    · cases h

theorem toGrant_keeps {k : Bool} {n : Nat} {s t : State} (h : toGrant k n s = some t) : Keeps placing s t := by
  induction n generalizing s with
  | zero => cases h
  | succ n ih =>
    unfold toGrant at h
    split at h
    · next s' e => exact (engineMove_keeps (by rw [e]; rfl)).trans (ih h)
    · next s' e => split at h
                   · rw [← Option.some.inj h]; exact engineMove_keeps (by rw [e]; rfl)
                   · cases h
    · next s' e => split at h
                   · rw [← Option.some.inj h]; exact engineMove_keeps (by rw [e]; rfl)
                   · cases h
    · cases h

theorem finishPlacing_keeps (n : Nat) (s : State) : Keeps placing s (finishPlacing n s) := by
  induction n generalizing s with
  | zero => exact Keeps.refl _ s
  | succ n ih =>
    unfold finishPlacing
    split
    · next s' e => exact (engineMove_keeps (by rw [e]; rfl)).trans (ih _)
    · next s' e => exact (engineMove_keeps (by rw [e]; rfl)).trans (ih _)
    · next s' e => exact (engineMove_keeps (by rw [e]; rfl)).trans (ih _)
    · exact Keeps.refl _ s

theorem handOver_keeps (t : Interval) (es : List ListEntry) (s : State) :
    Keeps (.openIntervals :: offering) s (handOver t es s) := by
  unfold handOver
  dsimp only
  exact ((((setRecords_keeps s _).mono (l' := .openIntervals :: offering) (by decide)).andThen (setRegister_keeps _ _)
    (by decide)).andThen (setOpenIntervals_keeps _ _) (by decide)).andThen (offers_keeps _ _) (by decide)

theorem claimCompletion_keeps (u : Bool) (far : Band → Bool) (s : State) :
    Keeps (.agenda :: claiming) s (claimCompletion u far s) := by
  unfold claimCompletion
  dsimp only
  have counted : Keeps (.agenda :: claiming) s (updateIdle far (updateDemand u s)) :=
    ((setFarDemand_keeps s _).mono (by decide)).andThen (setClaims_keeps _ _) (by decide)
  split
  · exact counted.andThen (decideClaim_keeps _) (by decide)
  · exact counted.andThen (setAgenda_keeps _ _) (by decide)

/-- What a completion can change. -/
abbrev completing : List Field :=
  [.flags, .txQueue, .claims, .contexts, .records, .register, .spacing, .farDemand, .agenda, .openIntervals, .cause,
   .inFlight, .flight, .deadlinesDue]

theorem takeDeadline_keeps (t : Interval) (s : State) :
    Keeps [.deadlinesDue, .contexts, .records, .register, .flags, .txQueue] s (takeDeadline t s) := by
  unfold takeDeadline
  split
  · exact ((setDeadlinesDue_keeps s _).mono (by decide)).andThen (deadline_keeps t _) (by decide)
  · exact Keeps.refl _ s

theorem catchUp_keeps (t : Interval) (s : State) :
    Keeps [.deadlinesDue, .contexts, .records, .openIntervals, .register, .flags, .txQueue] s (catchUp t s) := by
  unfold catchUp
  split
  · exact (((takeDeadline_keeps t s).mono (by decide)).andThen (timeoutClose_keeps t .dl _) (by decide)).andThen
      (timeoutClose_keeps t .ul _) (by decide)
  · exact Keeps.refl _ s

theorem composePlacement_keeps (f : Flight) (s : State) : Keeps completing s (composePlacement f s) := by
  unfold composePlacement
  dsimp only
  exact ((((handOver_keeps _ _ s).mono (by decide)).andThen (claimCompletion_keeps _ _ _) (by decide)).andThen
    (setCause_keeps _ _) (by decide)).andThen (setInFlight_keeps _ _) (by decide) |>.andThen
    (setFlight_keeps _ _) (by decide)

theorem completePlacement_keeps (s : State) : Keeps completing s (completePlacement s) := by
  unfold completePlacement
  split
  · exact Keeps.refl _ s
  · exact (composePlacement_keeps _ s).andThen (catchUp_keeps _ _) (by decide)

/-! ### The agenda, and the work of a pulse -/

/-- What is kept by everything but start-up, reset of the part and the queue of commands. -/
abbrev working : List Field :=
  [.station, .resume, .listening, .resetSeq, .interval, .synced, .contexts, .tags, .tagPtr, .refreshPtr, .claims,
   .farDemand, .spacing, .neighbours, .cause, .inFlight, .flight, .placementsDue, .fallbackPtr, .records,
   .openIntervals, .register, .deadlinesDue, .closesDue, .txQueue, .rxBuffer, .flags, .agenda]

theorem stationReset_keeps (s : State) : Keeps working s (stationReset s) := by
  intro f h
  cases f <;> first | rfl | exact absurd (by decide) h

/-- Doing an item of the agenda leaves RESET_N, own station number, profile, the free values' counter and the queue of
commands alone. -/
theorem perform_keeps (d : Due) (s : State) : Keeps working s (perform d s) := by
  cases d with
  | admissionHoldEnd i => exact (pulseSlot_keeps i s).mono (by decide)
  | silenceTimeout i => exact (pulseSlot_keeps i s).mono (by decide)
  | dormancy i => exact (pulseSlot_keeps i s).mono (by decide)
  | quarantineEnd t => exact (putTag_keeps s t _).mono (by decide)
  | soundPendingExpiry i => exact (putCtx_keeps s i _).mono (by decide)
  | bandHeld b => exact (holdBand_keeps b s).mono (by decide)
  | refreshClaim b => exact (refreshBand_keeps b s).mono (by decide)
  | settleEnd b => exact (settleBand_keeps b s).mono (by decide)
  | claimTransmitLimit b => exact (limitClaim_keeps b s).mono (by decide)
  | lastAssertExpiry b => exact (putOwn_keeps s b _).mono (by decide)
  | neighbourEntryExpiry b => exact (putNeighbour_keeps s b _).mono (by decide)
  | listeningEnd =>
    change Keeps working s (endListening s)
    unfold endListening; split
    · exact ((setListening_keeps s 0).mono (by decide)).andThen (setStation_keeps _ _) (by decide)
    · exact Keeps.refl _ s
  | resetSequenceTimeout => exact stationReset_keeps s
  | idleRelease b => exact (releaseIdle_keeps b s).mono (by decide)
  | newClaim => exact (decideClaim_keeps s).mono (by decide)

theorem settle_keeps (s : State) : Keeps working s (settle s) :=
  ((setAgenda_keeps s []).mono (by decide)).trans (Keeps.foldl (fun s d => perform_keeps d s) _ _)

/-- With nothing on the agenda there is nothing to settle. -/
theorem settle_of_empty {s : State} (h : s.agenda = []) : settle s = s := by
  have : s.setAgenda [] = s := by rw [← h]; rfl
  simp [settle, h, this]

theorem threshold_keeps (d : Due) (s : State) : Keeps working s (threshold d s) := by
  unfold threshold
  split
  · dsimp only
    have done : Keeps working s (perform d (s.setAgenda (s.agenda.erase d))) :=
      ((setAgenda_keeps s _).mono (by decide)).trans (perform_keeps _ _)
    split
    · exact done.trans (settle_keeps _)
    · exact done
  · exact Keeps.refl _ s

/-- Doing an item never puts anything on the agenda. -/
theorem perform_agenda (d : Due) (s : State) (h : s.agenda = []) : (perform d s).agenda = [] := by
  have k : ∀ {l : List Field} {t : State}, Keeps l s t → Field.agenda ∉ l → t.agenda = [] :=
    fun hk hl => (hk .agenda hl).trans h
  cases d with
  | admissionHoldEnd i => exact k (pulseSlot_keeps i s) (by decide)
  | silenceTimeout i => exact k (pulseSlot_keeps i s) (by decide)
  | dormancy i => exact k (pulseSlot_keeps i s) (by decide)
  | quarantineEnd t => exact h
  | soundPendingExpiry i => exact h
  | bandHeld b => exact k (holdBand_keeps b s) (by decide)
  | refreshClaim b => exact k (refreshBand_keeps b s) (by decide)
  | settleEnd b => exact k (settleBand_keeps b s) (by decide)
  | claimTransmitLimit b => exact k (limitClaim_keeps b s) (by decide)
  | lastAssertExpiry b => exact h
  | neighbourEntryExpiry b => exact h
  | listeningEnd =>
    change (endListening s).agenda = []
    unfold endListening; split <;> simpa using h
  | resetSequenceTimeout => rfl
  | idleRelease b => exact k (releaseIdle_keeps b s) (by decide)
  | newClaim => exact k (decideClaim_keeps s) (by decide)

/-- After settling, the agenda is empty. -/
theorem settle_agenda (s : State) : (settle s).agenda = [] := by
  have fold : ∀ (ds : List Due) (s : State), s.agenda = [] → (ds.foldl (fun s d => perform d s) s).agenda = [] := by
    intro ds
    induction ds with
    | nil => intro s h; exact h
    | cons d ds ih => intro s h; exact ih _ (perform_agenda d s h)
  exact fold _ _ rfl

theorem settleCloses_keeps (s : State) :
    Keeps [.contexts, .records, .openIntervals, .register, .flags, .txQueue, .closesDue] s (settleCloses s) :=
  ((setClosesDue_keeps s []).mono (by decide)).andThen
    (Keeps.foldl (fun s (o : Interval × Direction) => timeoutClose_keeps o.1 o.2 s) _ _) (by decide)

theorem settleDeadlines_keeps (s : State) :
    Keeps [.contexts, .records, .register, .flags, .txQueue, .deadlinesDue] s (settleDeadlines s) :=
  ((setDeadlinesDue_keeps s _).mono (by decide)).andThen (Keeps.foldl (fun s t => deadline_keeps t s) _ _) (by decide)

theorem settleAll_keeps (s : State) : Keeps working s (settleAll s) :=
  ((settle_keeps s).andThen (settleCloses_keeps _) (by decide)).andThen (settleDeadlines_keeps _) (by decide)

/-- What a timing fault can change at the blocks. -/
abbrev faulting : List Field :=
  [.flags, .txQueue, .contexts, .records, .openIntervals, .register, .deadlinesDue, .closesDue, .flight, .placementsDue,
   .inFlight, .claims]

theorem abandonPlacement_keeps (s : State) : Keeps [.flight, .placementsDue, .inFlight] s (abandonPlacement s) :=
  (((setFlight_keeps s _).mono (by decide)).andThen (setPlacementsDue_keeps _ _) (by decide)).andThen
    (setInFlight_keeps _ _) (by decide)

theorem faultRefresh_keeps (s : State) : Keeps [.claims] s (faultRefresh s) := setClaims_keeps s _

theorem timingFault_keeps (s : State) : Keeps faulting s (timingFault s) :=
  ((((raise_keeps .timingFault s).mono (l' := faulting) (by decide)).andThen (discardRecords_keeps _)
    (by decide)).andThen (abandonPlacement_keeps _) (by decide)).andThen (faultRefresh_keeps _) (by decide)

theorem pulseStation_keeps (s : State) : Keeps [.listening, .resetSeq] s (pulseStation s) := by
  unfold pulseStation
  dsimp only
  have listened : Keeps [.listening, .resetSeq] s
      (if s.station = .listening ∧ 1 < s.listening then s.setListening (s.listening - 1) else s) := by
    split
    · exact (setListening_keeps s _).mono (by decide)
    · exact Keeps.refl _ s
  split
  · exact listened.andThen (setResetSeq_keeps _ _) (by decide)
  · exact listened
  · exact listened

theorem pulseWork_keeps (s : State) : Keeps [.closesDue, .deadlinesDue, .placementsDue] s (pulseWork s) := by
  unfold pulseWork
  dsimp only
  have work := ((setClosesDue_keeps s ((s.openIntervals.filter (·.due s.interval)).map fun o =>
    (o.interval, o.dir))).mono (l' := [.closesDue, .deadlinesDue, .placementsDue]) (by decide)).andThen
    (setDeadlinesDue_keeps _ (s.deadlinesDue ++ [s.interval + 1])) (by decide)
  split
  · exact work.andThen (setPlacementsDue_keeps _ _) (by decide)
  · exact work

/-- What a pulse event itself can change: the counts, the agenda, and what it makes due. -/
abbrev counting : List Field :=
  [.contexts, .tags, .claims, .neighbours, .spacing, .listening, .resetSeq, .closesDue, .deadlinesDue, .placementsDue,
   .agenda]

theorem pulseClaims_keeps (s : State) : Keeps [.claims, .neighbours, .spacing] s (pulseClaims s) :=
  (((setClaims_keeps s _).mono (by decide)).andThen (setNeighbours_keeps _ _) (by decide)).andThen
    (setSpacing_keeps _ _) (by decide)

theorem pulseEvent_keeps (s : State) : Keeps counting s (pulseEvent s) := by
  unfold pulseEvent
  extract_lets agenda contexts tags
  have h1 : Keeps counting s contexts := (setContexts_keeps s _).mono (by decide)
  have h2 : Keeps counting s tags := h1.andThen (setTags_keeps _ _) (by decide)
  clear_value tags
  exact (((h2.andThen (pulseClaims_keeps _) (by decide)).andThen (pulseStation_keeps _) (by decide)).andThen
    (pulseWork_keeps _) (by decide)).andThen (setAgenda_keeps _ _) (by decide)

theorem markEvent_keeps (s : State) : Keeps [.station, .resume, .listening] s (markEvent s) := by
  unfold markEvent
  split
  all_goals first
    | exact Keeps.refl _ s
    | (split
       · exact (((setStation_keeps s _).mono (by decide)).andThen (setListening_keeps _ _) (by decide)).andThen
           (setResume_keeps _ _) (by decide)
       · exact ((setStation_keeps s _).mono (by decide)).andThen (setResume_keeps _ _) (by decide)
       · exact ((setStation_keeps s _).mono (by decide)).andThen (setResume_keeps _ _) (by decide))

theorem pulseEdge_keeps (mark : Bool) (s : State) : Keeps working s (pulseEdge mark s) := by
  unfold pulseEdge
  split
  · split
    · dsimp only
      split
      · exact ((((timingFault_keeps s).mono (l' := working) (by decide)).andThen (setInterval_keeps _ _)
          (by decide)).andThen (pulseEvent_keeps _) (by decide))
      · exact ((setInterval_keeps s _).mono (by decide)).andThen (pulseEvent_keeps _) (by decide)
    · split
      · exact (((setInterval_keeps s _).mono (l' := working) (by decide)).andThen (setSynced_keeps _ _)
          (by decide)).andThen (markEvent_keeps _) (by decide)
      · exact Keeps.refl _ s
  · exact Keeps.refl _ s

theorem suspend_keeps (s : State) : Keeps [.station, .resume] s (suspend s) := by
  unfold suspend
  split
  · exact ((setResume_keeps s _).mono (by decide)).andThen (setStation_keeps _ _) (by decide)
  · exact ((setResume_keeps s _).mono (by decide)).andThen (setStation_keeps _ _) (by decide)
  all_goals exact Keeps.refl _ s

theorem loseSync_keeps (s : State) : Keeps working s (loseSync s) := by
  unfold loseSync
  split
  · dsimp only
    have faulted := ((timingFault_keeps s).mono (l' := working) (by decide)).andThen (setSynced_keeps _ false)
      (by decide)
    split
    · exact faulted.trans (stationReset_keeps _)
    · exact faulted.andThen (suspend_keeps _) (by decide)
  · exact Keeps.refl _ s

/-! ### Resets by command -/

theorem endSequence_keeps (s : State) : Keeps working s (endSequence s) := by
  unfold endSequence; split
  · exact stationReset_keeps s
  · exact Keeps.refl _ s

theorem sequenceRelease_keeps (s : State) (b : Band) : Keeps offering s (sequenceRelease s b) := by
  unfold sequenceRelease
  dsimp only
  split
  · exact releaseBand_keeps _ _ _ _
  · exact Keeps.refl _ s

theorem beginSequence_keeps (s : State) : Keeps working s (beginSequence s) := by
  unfold beginSequence
  split
  · exact Keeps.refl _ s
  · exact (((setResetSeq_keeps s _).mono (l' := working) (by decide)).andThen
      (Keeps.foldl sequenceRelease_keeps _ _) (by decide)).trans (endSequence_keeps _)

/-! ### The bus and the receive buffer -/

theorem receive_keeps (t : RxTelegram) (s : State) : Keeps [.rxBuffer, .flags, .txQueue] s (receive t s) := by
  unfold receive; split
  · exact (setRxBuffer_keeps s _).mono (by decide)
  · exact (raise_keeps _ s).mono (by decide)

theorem receiveCells_keeps (cells : List Bool) (s : State) :
    Keeps [.rxBuffer, .flags, .txQueue] s (receiveCells cells s) := by
  unfold receiveCells
  split
  · split
    · exact receive_keeps _ s
    · exact Keeps.refl _ s
  · exact Keeps.refl _ s

theorem clearWire_keeps (s : State) : Keeps [.txQueue] s s.clearWire := setTxQueue_keeps s _

theorem reportSent_keeps (o : Owner) (s : State) : Keeps [.claims, .register] s (reportSent o s) := by
  cases o with
  | claim b => exact (claimSent_keeps b s).mono (by decide)
  | grantList t n => exact (listSent_keeps t n s).mono (by decide)
  | bandRelease _ _ => exact Keeps.refl _ s
  | unreported => exact Keeps.refl _ s
  | disowned => exact Keeps.refl _ s

theorem reportRemoved_keeps (o : Owner) (s : State) : Keeps offering s (reportRemoved o s) := by
  cases o with
  | claim b => exact (claimGone_keeps b s).mono (by decide)
  | grantList t n => exact (listWithdrawn_keeps t n s).mono (by decide)
  | bandRelease _ _ => exact Keeps.refl _ s
  | unreported => exact Keeps.refl _ s
  | disowned => exact Keeps.refl _ s

theorem finishFrame_keeps (s : State) : Keeps working s (finishFrame s) := by
  unfold finishFrame
  split
  · exact Keeps.refl _ s
  · exact (((clearWire_keeps s).mono (l' := working) (by decide)).andThen (reportSent_keeps _ _) (by decide)).trans
      (endSequence_keeps _)

theorem abandonFrame_keeps (s : State) : Keeps working s (abandonFrame s) := by
  unfold abandonFrame
  split
  · exact Keeps.refl _ s
  · split
    · exact (((clearWire_keeps s).mono (l' := working) (by decide)).andThen (reportRemoved_keeps _ _)
        (by decide)).trans (endSequence_keeps _)
    · split
      · exact ((((clearWire_keeps s).mono (l' := working) (by decide)).andThen (raise_keeps _ _) (by decide)).andThen
          (reportDropped_keeps _ _) (by decide)).trans (endSequence_keeps _)
      · exact (setTxQueue_keeps s _).mono (by decide)

theorem beginFrame_keeps (bus : BitVec 9) (s : State) : Keeps working s (beginFrame bus s) := by
  unfold beginFrame
  split
  · split
    · exact Keeps.refl _ s
    · dsimp only
      split
      · exact Keeps.refl _ s
      · split
        · exact ((setTxQueue_keeps s _).mono (by decide)).trans (abandonFrame_keeps _)
        · exact (setTxQueue_keeps s _).mono (by decide)
  · exact Keeps.refl _ s

theorem takeHead_keeps {l : List Field} {mine : RxTelegram → Bool} {act : RxTelegram → State → State} {s : State}
    (h : ∀ t s, Keeps l s (act t s)) (hl : Field.rxBuffer ∈ l) : Keeps l s (takeHead mine act s) := by
  unfold takeHead
  split
  · exact Keeps.refl _ s
  · split
    · dsimp only
      have taken := (setRxBuffer_keeps s (by assumption)).mono (l' := l) (by simpa using hl)
      split
      · exact taken.trans (h _ _)
      · exact taken
    · exact Keeps.refl _ s

theorem onPayload_keeps {l : List Field} {α : Type} {read : List Byte → Option α} {act : α → State → State}
    {t : RxTelegram} {s : State} (h : ∀ r, Keeps l s (act r s)) : Keeps l s (onPayload read act t s) := by
  unfold onPayload; split
  · exact h _
  · exact Keeps.refl _ s

end Sys2Proof.Machine
end

