-- ==== Sys2Proof/Laws/Bits.lean ====
section
/-! SUPPORT. Writing bits back to contexts, record by record (R140, R145, R148): what such a fold does to every context,
as sums over the records. -/
namespace Sys2Proof.Machine

@[simp] theorem Both.at_put {α : Type} (b : Both α) (d e : Direction) (v : α) :
    (b.put d v).at e = if d = e then v else b.at e := by
  cases d <;> cases e <;> rfl

theorem Both.ext_at {α : Type} {a b : Both α} (h : ∀ d, a.at d = b.at d) : a = b := by
  cases a; cases b; have h1 := h .dl; have h2 := h .ul
  simp only [Both.at] at h1 h2; rw [h1, h2]

/-- The sum of `bits` over a list's unorphaned records of a slot and direction. -/
def sumOf (rs : List Record) (bits : Record → Nat) (i : Slot) (d : Direction) : Nat :=
  ((rs.filter fun r => decide (r.slot = i) && decide (r.dir = d) && !r.orphan).map bits).sum

theorem sumOver_eq (s : State) (p : Record → Bool) (bits : Record → Nat) (i : Slot) (d : Direction) :
    s.sumOver p bits i d = sumOf (s.records.filter p) bits i d := by
  unfold State.sumOver sumOf
  rw [List.filter_filter]
  congr 3; funext r
  cases p r <;> cases decide (r.slot = i) <;> cases decide (r.dir = d) <;> cases r.orphan <;> rfl

theorem sumOf_cons (r : Record) (rs : List Record) (bits : Record → Nat) (i : Slot) (d : Direction) :
    sumOf (r :: rs) bits i d =
      (if r.slot = i ∧ r.dir = d ∧ r.orphan = false then bits r else 0) + sumOf rs bits i d := by
  unfold sumOf
  by_cases h : r.slot = i ∧ r.dir = d ∧ r.orphan = false
  · simp [h]
  · have : (decide (r.slot = i) && decide (r.dir = d) && !r.orphan) = false := by
      simp only [Bool.and_eq_false_iff, decide_eq_false_iff_not, Bool.not_eq_false']
      by_cases h1 : r.slot = i <;> by_cases h2 : r.dir = d <;> simp_all
    simp [h, this]

/-- A fold that, for every unorphaned record, lowers pending by `take` and raises backlog by `give`, held to its range. -/
theorem foldl_bits {f : State → Record → State} {take give : Record → Nat}
    (hf : ∀ s r, f s r = if r.orphan then s else s.putCtx r.slot { s.ctx r.slot with
      pending := (s.ctx r.slot).pending.put r.dir ((s.ctx r.slot).pending.at r.dir - take r)
      backlog := (s.ctx r.slot).backlog.put r.dir (min backlogMax ((s.ctx r.slot).backlog.at r.dir + give r)) })
    (rs : List Record) (s : State) (hb : ∀ i d, (s.ctx i).backlog.at d ≤ backlogMax) (i : Slot) :
    (∀ d, ((rs.foldl f s).ctx i).pending.at d = (s.ctx i).pending.at d - sumOf rs take i d) ∧
    (∀ d, ((rs.foldl f s).ctx i).backlog.at d = min backlogMax ((s.ctx i).backlog.at d + sumOf rs give i d)) ∧
    (rs.foldl f s).ctx i = { s.ctx i with
      pending := ((rs.foldl f s).ctx i).pending, backlog := ((rs.foldl f s).ctx i).backlog } := by
  induction rs generalizing s with
  | nil => simp [sumOf]; exact fun d => hb i d
  | cons r rs ih =>
    have hs : ∀ i d, ((f s r).ctx i).pending.at d =
        (s.ctx i).pending.at d - (if r.slot = i ∧ r.dir = d ∧ r.orphan = false then take r else 0) ∧
        ((f s r).ctx i).backlog.at d = min backlogMax ((s.ctx i).backlog.at d +
          (if r.slot = i ∧ r.dir = d ∧ r.orphan = false then give r else 0)) := by
      intro i d
      rw [hf]
      have := hb i d
      cases ho : r.orphan
      · by_cases h1 : r.slot = i
        · subst h1
          by_cases h2 : r.dir = d <;> (simp [h2]; try omega)
        · simp [putCtx_ctx_other _ _ _ h1, h1]; omega
      · simp; omega
    have hb' : ∀ i d, ((f s r).ctx i).backlog.at d ≤ backlogMax := fun i d => by rw [(hs i d).2]; omega
    obtain ⟨h1, h2, h3⟩ := ih (f s r) hb'
    refine ⟨fun d => ?_, fun d => ?_, ?_⟩
    · rw [List.foldl_cons, h1, (hs i d).1, sumOf_cons]; omega
    · rw [List.foldl_cons, h2, (hs i d).2, sumOf_cons]; omega
    · rw [List.foldl_cons]
      have e : (f s r).ctx i = { s.ctx i with
          pending := ((f s r).ctx i).pending, backlog := ((f s r).ctx i).backlog } := by
        rw [hf]
        cases r.orphan
        · by_cases h1 : r.slot = i
          · subst h1; simp
          · simp [putCtx_ctx_other _ _ _ h1]
        · simp
      generalize (rs.foldl f (f s r)).ctx i = c at h3 ⊢
      rw [h3, e]

end Sys2Proof.Machine
end

