-- ==== Sys2Proof/Laws/Invariants.lean ====
section
/-! SUPPORT. How a law of the state is shown to be kept by every command: `Preserved P` lists the parts of the work, each
under the premise that the station acts, and `exec_preserved` puts them together. In LOADING and HALTED only
the start-up rows do anything (`exec_quiet`). -/
namespace Sys2Proof.Machine

/-! ### LOADING and HALTED -/

theorem settleAll_of_empty {s : State} (h : s.agenda = []) (hc : s.closesDue = []) (hd : s.deadlinesDue = []) :
    settleAll s = s := by
  have h1 : settleCloses s = s := by
    have : s.setClosesDue [] = s := by rw [← hc]; rfl
    simp [settleCloses, hc, this]
  have h2 : settleDeadlines s = s := by
    have : s.setDeadlinesDue [] = s := by rw [← hd]; rfl
    simp [settleDeadlines, hd, this]
  rw [settleAll, settle_of_empty h, h1, h2]

theorem threshold_of_empty {s : State} (d : Due) (h : s.agenda = []) : threshold d s = s := by
  simp [threshold, h]

theorem takeHead_of_empty {s : State} {mine act} (hs : settle s = s) (h : s.rxBuffer = []) :
    takeHead mine act (settle s) = s := by
  simp [takeHead, hs, h]

/-- In LOADING and HALTED every row but HARDWARE_RESET, LOADING and PROFILE_LOAD leaves the part as it is. -/
theorem exec_quiet {s : State} (hq : s = s.quiet) (ha : s.acting = false) (c : Instr)
    (h1 : c ≠ .hardwareReset) (h2 : ∀ n, c ≠ .loading n) (h3 : ∀ im, c ≠ .profileLoad im) :
    exec c s = .next s := by
  have ag : s.agenda = [] := by rw [hq]; rfl
  have cd : s.closesDue = [] := by rw [hq]; rfl
  have dd : s.deadlinesDue = [] := by rw [hq]; rfl
  have fl : s.flight = none := by rw [hq]; rfl
  have pd : s.placementsDue = [] := by rw [hq]; rfl
  have rx : s.rxBuffer = [] := by rw [hq]; rfl
  have sy : s.synced = false := by rw [hq]; rfl
  have wi : s.wire = none := by rw [hq]; rfl
  have st := settle_of_empty ag
  have sa := settleAll_of_empty ag cd dd
  have tg : ∀ k, toGrant k movesBound s = none := by
    intro k
    have : engineMove s = .ended := by simp [engineMove, fl]
    simp [toGrant, movesBound, this]
  cases c with
  | hardwareReset => exact absurd rfl h1
  | loading n => exact absurd rfl (h2 n)
  | profileLoad im => exact absurd rfl (h3 im)
  | spulseEdge m => simp [exec, execSpulseEdge, sa, pulseEdge, ha]
  | pulseLoss => simp [exec, execPulseLoss, sa, loseSync, sy]
  | placementBegin => simp [exec, execPlacementBegin, st, beginDue, fl, pd]
  | dataGrant => simp [exec, execDataGrant, st, tg]
  | fallbackGrant => simp [exec, execFallbackGrant, st, tg]
  | placementCompletion => simp [exec, execPlacementCompletion, st, fl]
  | grantListDeadline t => simp [exec, execGrantListDeadline, st, dd]
  | closeByTimeout t d => simp [exec, execCloseByTimeout, st, cd]
  | frameReceived cells => simp [exec, execFrameReceived, st, receiveCells, ha]
  | frameTransmitStart bus => simp [exec, execFrameTransmitStart, st, beginFrame, ha]
  | frameSent => simp [exec, execFrameSent, st, finishFrame, wi]
  | transmitError => simp [exec, execTransmitError, st, abandonFrame, wi]
  | attach => exact congrArg _ (takeHead_of_empty st rx)
  | detach => exact congrArg _ (takeHead_of_empty st rx)
  | quality => exact congrArg _ (takeHead_of_empty st rx)
  | range => exact congrArg _ (takeHead_of_empty st rx)
  | buffer => exact congrArg _ (takeHead_of_empty st rx)
  | usage => exact congrArg _ (takeHead_of_empty st rx)
  | claim => exact congrArg _ (takeHead_of_empty st rx)
  | bandRelease => exact congrArg _ (takeHead_of_empty st rx)
  | peerAdmit => exact congrArg _ (takeHead_of_empty st rx)
  | queryByTag => exact congrArg _ (takeHead_of_empty st rx)
  | queryOfStation => exact congrArg _ (takeHead_of_empty st rx)
  | release => exact congrArg _ (takeHead_of_empty st rx)
  | retrain => exact congrArg _ (takeHead_of_empty st rx)
  | clear => exact congrArg _ (takeHead_of_empty st rx)
  | reset => exact congrArg _ (takeHead_of_empty st rx)
  | admissionHoldEnd i => exact congrArg _ (threshold_of_empty _ ag)
  | silenceTimeout i => exact congrArg _ (threshold_of_empty _ ag)
  | dormancy i => exact congrArg _ (threshold_of_empty _ ag)
  | quarantineEnd t => exact congrArg _ (threshold_of_empty _ ag)
  | soundPendingExpiry i => exact congrArg _ (threshold_of_empty _ ag)
  | bandHeld b => exact congrArg _ (threshold_of_empty _ ag)
  | refreshClaim b => exact congrArg _ (threshold_of_empty _ ag)
  | settleEnd b => exact congrArg _ (threshold_of_empty _ ag)
  | claimTransmitLimit b => exact congrArg _ (threshold_of_empty _ ag)
  | lastAssertExpiry b => exact congrArg _ (threshold_of_empty _ ag)
  | neighbourEntryExpiry b => exact congrArg _ (threshold_of_empty _ ag)
  | listeningEnd => exact congrArg _ (threshold_of_empty _ ag)
  | resetSequenceTimeout => exact congrArg _ (threshold_of_empty _ ag)
  | idleRelease b => exact congrArg _ (threshold_of_empty _ ag)

/-! ### The parts of the work -/

/-- A law kept by each part of the work. All but the first three parts are asked about acting stations only. -/
structure Preserved (P : State → Prop) : Prop where
  hardwareReset : ∀ s, P (hardwareReset s)
  enterLoading : ∀ n s, s.acting = false → s = s.quiet → P s → P (enterLoading n s)
  loadProfile : ∀ im s, s.acting = false → s = s.quiet → P s → P (loadProfile im s)
  setAgenda : ∀ v s, s.acting = true → P s → P (s.setAgenda v)
  setDeadlinesDue : ∀ v s, s.acting = true → P s → P (s.setDeadlinesDue v)
  perform : ∀ d s, s.acting = true → P s → P (perform d s)
  closes : ∀ s, s.acting = true → P s → P (settleCloses s)
  closeDue : ∀ t d s, s.acting = true → (t, d) ∈ s.closesDue → P s →
    P (timeoutClose t d (s.setClosesDue (s.closesDue.erase (t, d))))
  deadline : ∀ t s, s.acting = true → P s → P (deadline t s)
  pulse : ∀ s, s.acting = true → s.synced = true → s.closesDue = [] → P s →
    P (pulseEvent (s.setInterval (s.interval + 1)))
  mismatch : ∀ s, s.acting = true → s.synced = true → P s → P (pulseEvent ((timingFault s).setInterval 0))
  mark : ∀ s, s.acting = true → s.synced = false → P s → P (markEvent ((s.setInterval 0).setSynced true))
  loss : ∀ s, s.acting = true → s.synced = true → P s → P (suspend ((timingFault s).setSynced false))
  beginPlacement : ∀ t later s, s.acting = true → s.flight = none → s.placementsDue = t :: later → P s →
    P (beginPlacement t (s.setPlacementsDue later))
  engineMove : ∀ s t, s.acting = true → P s → (engineMove s).state = some t → P t
  completePlacement : ∀ s, s.acting = true → s.closesDue = [] → P s → P (completePlacement s)
  receive : ∀ t s, s.acting = true → P s → P (receive t s)
  takeRx : ∀ t rest s, s.acting = true → s.rxBuffer = t :: rest → P s → P (s.setRxBuffer rest)
  beginWire : ∀ s, s.acting = true → s.wire = none → P s → P (s.setTxQueue (updateFirst
    (fun x => x.kind.priority == firstClass s.txQueue) (fun x => { x with onWire := true }) s.txQueue))
  finishFrame : ∀ s, s.acting = true → P s → P (finishFrame s)
  abandonFrame : ∀ s, s.acting = true → P s → P (abandonFrame s)
  raise : ∀ c s, s.acting = true → P s → P (raise c s)
  takeAttach : ∀ a s, s.acting = true → P s → P (takeAttach a s)
  releaseContext : ∀ i r s, s.acting = true → P s → P (releaseContext i r s)
  applyQuality : ∀ r i s, s.acting = true → s.slotOf r.tag = some i → P s → P (applyQuality r i s)
  applyRange : ∀ r i s, s.acting = true → s.slotOf r.tag = some i → P s → P (applyRange r i s)
  applyBuffer : ∀ r i s, s.acting = true → r.bytes < 2 ^ 24 → P s → P (applyBuffer r i s)
  takeUsage : ∀ u s, s.acting = true → P s → P (takeUsage u s)
  hearClaim : ∀ src b a s, s.acting = true → P s → P (hearClaim src b a s)
  hearRelease : ∀ src b s, s.acting = true → P s → P (hearRelease src b s)
  takeAdmit : ∀ src a s, s.acting = true → P s → P (takeAdmit src a s)
  offerStatus : ∀ p s, s.acting = true → P s → P (offerStatus p s)
  setFreeCount : ∀ v s, s.acting = true → P s → P (s.setFreeCount v)
  retrainTag : ∀ t s, s.acting = true → P s → P (retrainTag t s)
  clearFlags : ∀ m s, s.acting = true → P s → P (clearFlags m s)
  beginSequence : ∀ s, s.acting = true → P s → P (beginSequence s)

theorem stationReset_acting (s : State) : (stationReset s).acting = true := rfl

theorem perform_acting (d : Due) (s : State) (h : s.acting = true) : (perform d s).acting = true := by
  have k : ∀ {l : List Field} {t : State}, Keeps l s t → Field.station ∉ l → t.acting = true :=
    fun hk hl => (hk.acting hl).trans h
  cases d with
  | admissionHoldEnd i => exact k (pulseSlot_keeps i s) (by decide)
  | silenceTimeout i => exact k (pulseSlot_keeps i s) (by decide)
  | dormancy i => exact k (pulseSlot_keeps i s) (by decide)
  | quarantineEnd t => exact h
  | soundPendingExpiry i => exact h
  | bandHeld b => exact k (holdBand_keeps b s) (by decide)
  | refreshClaim b => exact k (refreshBand_keeps b s) (by decide)
  | settleEnd b => exact k (settleBand_keeps b s) (by decide)
  | claimTransmitLimit b => exact k (limitClaim_keeps b s) (by decide)
  | lastAssertExpiry b => exact h
  | neighbourEntryExpiry b => exact h
  | listeningEnd =>
    change (endListening s).acting = true
    unfold endListening; split
    · rfl
    · exact h
  | resetSequenceTimeout => rfl
  | idleRelease b => exact k (releaseIdle_keeps b s) (by decide)
  | newClaim => exact k (decideClaim_keeps s) (by decide)

/-- A fold of parts, each keeping the law and the acting state. -/
theorem foldl_both {α : Type} {P : State → Prop} {f : State → α → State}
    (h : ∀ s a, s.acting = true → P s → (f s a).acting = true ∧ P (f s a)) (xs : List α) (s : State)
    (ha : s.acting = true) (hp : P s) : (xs.foldl f s).acting = true ∧ P (xs.foldl f s) := by
  induction xs generalizing s with
  | nil => exact ⟨ha, hp⟩
  | cons x xs ih => exact ih (f s x) (h s x ha hp).1 (h s x ha hp).2

variable {P : State → Prop}

theorem Preserved.settle (h : Preserved P) (s : State) (ha : s.acting = true) (hp : P s) :
    (settle s).acting = true ∧ P (settle s) :=
  foldl_both (fun s d ha hp => ⟨perform_acting d s ha, h.perform d s ha hp⟩) _ _ ha (h.setAgenda [] s ha hp)

theorem settleCloses_closesDue (s : State) : (settleCloses s).closesDue = [] :=
  Keeps.foldl (fun s (o : Interval × Direction) => timeoutClose_keeps o.1 o.2 s) _ _ .closesDue (by decide)

theorem settleAll_closesDue (s : State) : (settleAll s).closesDue = [] :=
  (settleDeadlines_keeps _ .closesDue (by decide)).trans (settleCloses_closesDue _)

theorem Preserved.settleCloses (h : Preserved P) (s : State) (ha : s.acting = true) (hp : P s) :
    (settleCloses s).acting = true ∧ P (settleCloses s) :=
  ⟨((settleCloses_keeps s).acting (by decide)).trans ha, h.closes s ha hp⟩

theorem Preserved.settleDeadlines (h : Preserved P) (s : State) (ha : s.acting = true) (hp : P s) :
    (settleDeadlines s).acting = true ∧ P (settleDeadlines s) :=
  foldl_both (fun s t ha hp => ⟨((deadline_keeps t s).acting (by decide)).trans ha, h.deadline t s ha hp⟩)
    _ _ ha (h.setDeadlinesDue _ _ ha hp)

theorem Preserved.settleAll (h : Preserved P) (s : State) (ha : s.acting = true) (hp : P s) :
    (settleAll s).acting = true ∧ P (settleAll s) := by
  obtain ⟨a1, p1⟩ := h.settle s ha hp
  obtain ⟨a2, p2⟩ := h.settleCloses _ a1 p1
  exact h.settleDeadlines _ a2 p2

theorem Preserved.threshold (h : Preserved P) (d : Due) (s : State) (ha : s.acting = true) (hp : P s) :
    P (threshold d s) := by
  unfold Machine.threshold
  split
  · dsimp only
    have p := h.perform d _ (by simpa using ha) (h.setAgenda (s.agenda.erase d) s ha hp)
    split
    · exact (h.settle _ (perform_acting d _ (by simpa using ha)) p).2
    · exact p
  · exact hp

theorem engineMove_acting {s t : State} (ha : s.acting = true) (e : (engineMove s).state = some t) :
    t.acting = true := ((engineMove_keeps e).acting (by decide)).trans ha

theorem Preserved.toGrant (h : Preserved P) {k : Bool} {n : Nat} {s t : State} (ha : s.acting = true) (hp : P s)
    (e : toGrant k n s = some t) : P t := by
  induction n generalizing s with
  | zero => cases e
  | succ n ih =>
    unfold Machine.toGrant at e
    split at e
    · next s' m => exact ih (engineMove_acting ha (by rw [m]; rfl)) (h.engineMove s s' ha hp (by rw [m]; rfl)) e
    · next s' m => split at e
                   · rw [← Option.some.inj e]; exact h.engineMove s s' ha hp (by rw [m]; rfl)
                   · cases e
    · next s' m => split at e
                   · rw [← Option.some.inj e]; exact h.engineMove s s' ha hp (by rw [m]; rfl)
                   · cases e
    · cases e

theorem Preserved.finishPlacing (h : Preserved P) (n : Nat) (s : State) (ha : s.acting = true) (hp : P s) :
    P (finishPlacing n s) := by
  induction n generalizing s with
  | zero => exact hp
  | succ n ih =>
    unfold Machine.finishPlacing
    split
    · next s' m => exact ih _ (engineMove_acting ha (by rw [m]; rfl)) (h.engineMove s s' ha hp (by rw [m]; rfl))
    · next s' m => exact ih _ (engineMove_acting ha (by rw [m]; rfl)) (h.engineMove s s' ha hp (by rw [m]; rfl))
    · next s' m => exact ih _ (engineMove_acting ha (by rw [m]; rfl)) (h.engineMove s s' ha hp (by rw [m]; rfl))
    · exact hp

theorem stationReset_unsynced (s : State) : stationReset (s.setSynced false) = stationReset s := rfl

/-- What a station reset reads of the state. -/
theorem stationReset_congr {s t : State} (h : Keeps faulting s t) : stationReset t = stationReset s := by
  unfold stationReset
  rw [h .resetN (by decide), h .ownStation (by decide), h .profile (by decide), h .freeCount (by decide),
    h .pending (by decide)]

theorem stationReset_faulted (s : State) : stationReset ((timingFault s).setSynced false) = stationReset s :=
  (stationReset_unsynced _).trans (stationReset_congr (timingFault_keeps s))

theorem Preserved.pulseEdge (h : Preserved P) (m : Bool) (s : State) (ha : s.acting = true) (hc : s.closesDue = [])
    (hp : P s) : P (pulseEdge m s) := by
  unfold Machine.pulseEdge
  rw [if_pos ha]
  split
  · next hs =>
    dsimp only
    split
    · exact h.mismatch s ha hs hp
    · exact h.pulse s ha hs hc hp
  · next hs =>
    split
    · exact h.mark s ha (by simpa using hs) hp
    · exact hp

theorem Preserved.loseSync (h : Preserved P) (s : State) (ha : s.acting = true) (hp : P s) : P (loseSync s) := by
  unfold Machine.loseSync
  split
  · next hs =>
    dsimp only
    split
    · rw [stationReset_faulted]
      exact h.perform .resetSequenceTimeout s ha hp
    · exact h.loss s ha hs hp
  · exact hp

theorem Preserved.takeHead (h : Preserved P) {mine : RxTelegram → Bool} {act : RxTelegram → State → State} (s : State)
    (ha : s.acting = true) (hp : P s) (hact : ∀ t s, s.acting = true → P s → P (act t s)) :
    P (takeHead mine act s) := by
  unfold Machine.takeHead
  split
  · exact hp
  · next t rest e =>
    split
    · exact hact _ _ (by simpa using ha) (h.takeRx t rest s ha e hp)
    · exact hp

theorem onPayload_both {α : Type} {read : List Byte → Option α} {act : α → State → State} {t : RxTelegram} {s : State}
    (hp : P s) (h : ∀ r, read t.payload = some r → P (act r s)) : P (onPayload read act t s) := by
  unfold onPayload; split
  · exact h _ (by assumption)
  · exact hp

theorem Preserved.onTag (h : Preserved P) {t : Tag} {act : Slot → State → State} {s : State} (ha : s.acting = true)
    (hp : P s) (hact : ∀ i, s.slotOf t = some i → P (act i s)) : P (onTag t act s) := by
  unfold Machine.onTag
  split
  · exact hact _ (by assumption)
  · split
    · exact h.raise _ s ha hp
    · exact hp

theorem Preserved.answer (h : Preserved P) (q : Query) (s : State) (ha : s.acting = true) (hp : P s) :
    P (answer q s) := by
  obtain ⟨a1, p1⟩ := h.settleCloses s ha hp
  obtain ⟨a2, p2⟩ := h.settleDeadlines _ a1 p1
  cases q with
  | byTag tag =>
    show P (answerTag tag _)
    unfold answerTag
    split <;> exact h.offerStatus _ _ a2 p2
  | ofStation => exact h.setFreeCount _ _ (((offer_keeps _ _).acting (by decide)).trans a2) (h.offerStatus _ _ a2 p2)

theorem readBuffer_bytes {p : List Byte} {r : BufferReport} (h : readBuffer p = some r) : r.bytes < 2 ^ 24 := by
  unfold readBuffer at h
  split at h
  · rw [← Option.some.inj h]; exact Nat.mod_lt _ (by decide)
  · cases h

/-- A law kept by each part is kept by every command, at states where the station law holds. -/
theorem exec_preserved (h : Preserved P) {c : Instr} {s t : State} (hs : StationLaw s) (hp : P s)
    (e : exec c s = .next t) : P t := by
  obtain ⟨-, -, hreset, hquiet⟩ := hs
  cases ha : s.acting with
  | false =>
    have hq := hquiet ha
    by_cases h1 : c = .hardwareReset
    · subst h1
      injection e with e; subst e; exact h.hardwareReset s
    · by_cases h2 : ∃ n, c = .loading n
      · obtain ⟨n, rfl⟩ := h2
        have ag : s.agenda = [] := by rw [hq]; rfl
        injection e with e; subst e
        rw [settle_of_empty ag]
        exact h.enterLoading n s ha hq hp
      · by_cases h3 : ∃ im, c = .profileLoad im
        · obtain ⟨im, rfl⟩ := h3
          have ag : s.agenda = [] := by rw [hq]; rfl
          injection e with e; subst e
          rw [settle_of_empty ag]
          exact h.loadProfile im s ha hq hp
        · rw [exec_quiet hq ha c h1 (fun n hn => h2 ⟨n, hn⟩) (fun im hm => h3 ⟨im, hm⟩)] at e
          injection e with e; subst e; exact hp
  | true =>
    have hr : s.resetN = true := by
      cases hn : s.resetN with
      | true => rfl
      | false => rw [State.acting, hreset hn] at ha; cases ha
    obtain ⟨a0, p0⟩ := h.settle s ha hp
    have r0 : (Machine.settle s).resetN = true := (settle_keeps s .resetN (by decide)).trans hr
    have head : ∀ {mine act}, (∀ t s, s.acting = true → P s → P (act t s)) →
        P (Machine.takeHead mine act (Machine.settle s)) := fun hact => h.takeHead _ a0 p0 hact
    cases c with
    | hardwareReset => injection e with e; subst e; exact h.hardwareReset s
    | loading n => injection e with e; subst e; simpa [Machine.enterLoading, r0] using p0
    | profileLoad im =>
      injection e with e; subst e
      have : (Machine.settle s).station ≠ .loading := by
        intro hl; rw [State.acting, hl] at a0; cases a0
      simpa [Machine.loadProfile, this] using p0
    | spulseEdge m =>
      injection e with e; subst e
      obtain ⟨a1, p1⟩ := h.settleAll s ha hp
      exact h.pulseEdge m _ a1 (settleAll_closesDue s) p1
    | pulseLoss =>
      injection e with e; subst e
      obtain ⟨a1, p1⟩ := h.settleAll s ha hp
      exact h.loseSync _ a1 p1
    | placementBegin =>
      injection e with e; subst e
      unfold beginDue
      split
      · exact h.beginPlacement _ _ _ a0 (by assumption) (by assumption) p0
      · exact p0
      · exact p0
    | dataGrant =>
      injection e with e; subst e
      cases g : Machine.toGrant true movesBound (Machine.settle s) with
      | none => exact p0
      | some u => exact h.toGrant a0 p0 g
    | fallbackGrant =>
      injection e with e; subst e
      cases g : Machine.toGrant false movesBound (Machine.settle s) with
      | none => exact p0
      | some u => exact h.toGrant a0 p0 g
    | placementCompletion =>
      simp only [exec, execPlacementCompletion] at e
      split at e
      · injection e with e; subst e
        obtain ⟨a1, p1⟩ := h.settleCloses _ a0 p0
        exact h.completePlacement _ (((finishPlacing_keeps _ _).acting (by decide)).trans a1)
          ((finishPlacing_keeps _ _ .closesDue (by decide)).trans (settleCloses_closesDue _)) (h.finishPlacing _ _ a1 p1)
      · injection e with e; subst e; exact p0
    | grantListDeadline d =>
      simp only [exec, execGrantListDeadline] at e
      split at e
      · injection e with e; subst e
        exact h.deadline _ _ (by simpa using a0) (h.setDeadlinesDue _ _ a0 p0)
      · injection e with e; subst e; exact p0
    | closeByTimeout i d =>
      simp only [exec, execCloseByTimeout] at e
      split at e
      · next hc => injection e with e; subst e; exact h.closeDue _ _ _ a0 (List.contains_iff_mem.mp hc) p0
      · injection e with e; subst e; exact p0
    | frameReceived cells =>
      injection e with e; subst e
      unfold receiveCells
      split
      · split
        · exact h.receive _ _ a0 p0
        · exact p0
      · exact p0
    | frameTransmitStart bus =>
      injection e with e; subst e
      unfold beginFrame
      split
      · next hw =>
        split
        · exact p0
        · dsimp only
          have p1 := h.beginWire _ a0 hw.2 p0
          split
          · exact p0
          · split
            · exact h.abandonFrame _ (by simpa using a0) p1
            · exact p1
      · exact p0
    | frameSent => injection e with e; subst e; exact h.finishFrame _ a0 p0
    | transmitError => injection e with e; subst e; exact h.abandonFrame _ a0 p0
    | attach =>
      injection e with e; subst e
      exact head fun t s ha hp => onPayload_both hp fun r _ => h.takeAttach r s ha hp
    | detach =>
      injection e with e; subst e
      exact head fun t s ha hp => onPayload_both hp fun r _ => h.onTag ha hp fun i _ => h.releaseContext i _ s ha hp
    | quality =>
      injection e with e; subst e
      exact head fun t s ha hp => onPayload_both hp fun r _ => h.onTag ha hp fun i hi => h.applyQuality r i s ha hi hp
    | range =>
      injection e with e; subst e
      exact head fun t s ha hp => onPayload_both hp fun r _ => h.onTag ha hp fun i hi => h.applyRange r i s ha hi hp
    | buffer =>
      injection e with e; subst e
      exact head fun t s ha hp => onPayload_both hp fun r hr => h.onTag ha hp fun i _ =>
        h.applyBuffer r i s ha (readBuffer_bytes hr) hp
    | usage =>
      injection e with e; subst e
      exact head fun t s ha hp => onPayload_both hp fun r _ => h.takeUsage r s ha hp
    | claim =>
      injection e with e; subst e
      refine head fun t s ha hp => onPayload_both hp fun r _ => ?_
      split
      · split
        · exact hp
        · exact h.hearClaim _ _ _ s ha hp
      · exact hp
    | bandRelease =>
      injection e with e; subst e
      refine head fun t s ha hp => onPayload_both hp fun r _ => ?_
      split
      · split
        · exact hp
        · exact h.hearRelease _ _ s ha hp
      · exact hp
    | peerAdmit =>
      injection e with e; subst e
      exact head fun t s ha hp => onPayload_both hp fun r _ => h.takeAdmit _ r s ha hp
    | queryByTag =>
      injection e with e; subst e
      exact head fun t s ha hp => onPayload_both hp fun r _ => h.answer r s ha hp
    | queryOfStation =>
      injection e with e; subst e
      exact head fun t s ha hp => onPayload_both hp fun r _ => h.answer r s ha hp
    | release =>
      injection e with e; subst e
      refine head fun t s ha hp => onPayload_both hp fun r _ => ?_
      unfold releaseTag
      split
      · exact h.releaseContext _ _ s ha hp
      · exact hp
    | retrain =>
      injection e with e; subst e
      exact head fun t s ha hp => onPayload_both hp fun r _ => h.retrainTag r s ha hp
    | clear =>
      injection e with e; subst e
      exact head fun t s ha hp => onPayload_both hp fun r _ => h.clearFlags r s ha hp
    | reset =>
      injection e with e; subst e
      exact head fun t s ha hp => onPayload_both hp fun _ _ => h.beginSequence s ha hp
    | admissionHoldEnd i => injection e with e; subst e; exact h.threshold _ s ha hp
    | silenceTimeout i => injection e with e; subst e; exact h.threshold _ s ha hp
    | dormancy i => injection e with e; subst e; exact h.threshold _ s ha hp
    | quarantineEnd t => injection e with e; subst e; exact h.threshold _ s ha hp
    | soundPendingExpiry i => injection e with e; subst e; exact h.threshold _ s ha hp
    | bandHeld b => injection e with e; subst e; exact h.threshold _ s ha hp
    | refreshClaim b => injection e with e; subst e; exact h.threshold _ s ha hp
    | settleEnd b => injection e with e; subst e; exact h.threshold _ s ha hp
    | claimTransmitLimit b => injection e with e; subst e; exact h.threshold _ s ha hp
    | lastAssertExpiry b => injection e with e; subst e; exact h.threshold _ s ha hp
    | neighbourEntryExpiry b => injection e with e; subst e; exact h.threshold _ s ha hp
    | listeningEnd => injection e with e; subst e; exact h.threshold _ s ha hp
    | resetSequenceTimeout => injection e with e; subst e; exact h.threshold _ s ha hp
    | idleRelease b => injection e with e; subst e; exact h.threshold _ s ha hp

/-- The station law reads nothing of the queue of commands. -/
theorem stationLaw_setPending {s : State} (v : List Instr) (h : StationLaw s) : StationLaw (s.setPending v) := by
  obtain ⟨h1, h2, h3, h4⟩ := h
  refine ⟨h1, h2, h3, fun ha => ?_⟩
  have := h4 (by simpa using ha)
  rw [this]; rfl

/-- A law kept by each part, and not about the queue of commands, is kept by every step. -/
theorem step_preserved (h : Preserved P) (hq : ∀ v s, P s → P (s.setPending v)) {s t : State} (hs : StationLaw s)
    (hp : P s) (e : step s = .next t) : P t := by
  unfold step at e
  split at e
  · injection e with e; subst e; exact hp
  · exact exec_preserved h (stationLaw_setPending _ hs) (hq _ s hp) e

end Sys2Proof.Machine
end

