-- ==== Sys2Proof/Laws/Pulse.lean ====
section
/-! SUPPORT. What a pulse event does, field by field (R5, R18, R29, R62, R77, R113, R141, R144, R175, R177). -/
namespace Sys2Proof.Machine
variable (s : State)

theorem pulseEvent_eq : pulseEvent s = (pulseWork (pulseStation (pulseClaims
    ((s.setContexts (Vector.ofFn fun i => (s.ctx i).pulsed s.profile)).setTags
      (Vector.ofFn fun t => (s.tagEntry t).pulsed))))).setAgenda (pulseAgenda s) := rfl

@[simp] theorem pulseWork_contexts : (pulseWork s).contexts = s.contexts := pulseWork_keeps s .contexts (by decide)
@[simp] theorem pulseWork_tags : (pulseWork s).tags = s.tags := pulseWork_keeps s .tags (by decide)
@[simp] theorem pulseWork_claims : (pulseWork s).claims = s.claims := pulseWork_keeps s .claims (by decide)
@[simp] theorem pulseWork_neighbours : (pulseWork s).neighbours = s.neighbours := pulseWork_keeps s .neighbours (by decide)
@[simp] theorem pulseWork_spacing : (pulseWork s).spacing = s.spacing := pulseWork_keeps s .spacing (by decide)
@[simp] theorem pulseWork_listening : (pulseWork s).listening = s.listening := pulseWork_keeps s .listening (by decide)
@[simp] theorem pulseWork_resetSeq : (pulseWork s).resetSeq = s.resetSeq := pulseWork_keeps s .resetSeq (by decide)

@[simp] theorem pulseStation_contexts : (pulseStation s).contexts = s.contexts :=
  pulseStation_keeps s .contexts (by decide)
@[simp] theorem pulseStation_tags : (pulseStation s).tags = s.tags := pulseStation_keeps s .tags (by decide)
@[simp] theorem pulseStation_claims : (pulseStation s).claims = s.claims := pulseStation_keeps s .claims (by decide)
@[simp] theorem pulseStation_neighbours : (pulseStation s).neighbours = s.neighbours :=
  pulseStation_keeps s .neighbours (by decide)
@[simp] theorem pulseStation_spacing : (pulseStation s).spacing = s.spacing := pulseStation_keeps s .spacing (by decide)
@[simp] theorem pulseStation_station : (pulseStation s).station = s.station := pulseStation_keeps s .station (by decide)
@[simp] theorem pulseStation_interval : (pulseStation s).interval = s.interval :=
  pulseStation_keeps s .interval (by decide)
@[simp] theorem pulseStation_openIntervals : (pulseStation s).openIntervals = s.openIntervals :=
  pulseStation_keeps s .openIntervals (by decide)
@[simp] theorem pulseStation_deadlinesDue : (pulseStation s).deadlinesDue = s.deadlinesDue :=
  pulseStation_keeps s .deadlinesDue (by decide)
@[simp] theorem pulseStation_placementsDue : (pulseStation s).placementsDue = s.placementsDue :=
  pulseStation_keeps s .placementsDue (by decide)

theorem pulseStation_listening : (pulseStation s).listening =
    if s.station = .listening ∧ 1 < s.listening then s.listening - 1 else s.listening := by
  unfold pulseStation
  rcases hq : s.resetSeq with _ | _ | n <;>
    by_cases hc : s.station = .listening ∧ 1 < s.listening <;> simp [hc]

theorem pulseStation_resetSeq : (pulseStation s).resetSeq = s.resetSeq.map fun n => if n = 0 then 1 else n := by
  unfold pulseStation
  rcases hq : s.resetSeq with _ | _ | n <;> by_cases hc : s.station = .listening ∧ 1 < s.listening <;> simp [hq, hc]

@[simp] theorem pulseClaims_contexts : (pulseClaims s).contexts = s.contexts := rfl
@[simp] theorem pulseClaims_tags : (pulseClaims s).tags = s.tags := rfl
@[simp] theorem pulseClaims_station : (pulseClaims s).station = s.station := rfl
@[simp] theorem pulseClaims_listening : (pulseClaims s).listening = s.listening := rfl
@[simp] theorem pulseClaims_resetSeq : (pulseClaims s).resetSeq = s.resetSeq := rfl
@[simp] theorem pulseClaims_interval : (pulseClaims s).interval = s.interval := rfl
@[simp] theorem pulseClaims_openIntervals : (pulseClaims s).openIntervals = s.openIntervals := rfl
@[simp] theorem pulseClaims_deadlinesDue : (pulseClaims s).deadlinesDue = s.deadlinesDue := rfl
@[simp] theorem pulseClaims_placementsDue : (pulseClaims s).placementsDue = s.placementsDue := rfl

theorem pulseClaims_claims : (pulseClaims s).claims = Vector.ofFn fun b => (s.own b).pulsed := rfl
theorem pulseClaims_neighbours : (pulseClaims s).neighbours = Vector.ofFn fun b => (s.neighbour b).map PeerEntry.pulsed :=
  rfl
theorem pulseClaims_spacing : (pulseClaims s).spacing = s.spacing - 1 := rfl

theorem pulseEvent_ctx (i : Slot) : (pulseEvent s).ctx i = (s.ctx i).pulsed s.profile := by
  unfold State.ctx; rw [pulseEvent_eq]; simp [State.ctx]

theorem pulseEvent_tagEntry (t : Tag) : (pulseEvent s).tagEntry t = (s.tagEntry t).pulsed := by
  unfold State.tagEntry; rw [pulseEvent_eq]; simp [State.tagEntry]

theorem pulseEvent_own (b : Band) : (pulseEvent s).own b = (s.own b).pulsed := by
  unfold State.own; rw [pulseEvent_eq]; simp [State.own, pulseClaims_claims]

theorem pulseEvent_neighbour (b : Band) : (pulseEvent s).neighbour b = (s.neighbour b).map PeerEntry.pulsed := by
  unfold State.neighbour; rw [pulseEvent_eq]; simp [State.neighbour, pulseClaims_neighbours]

theorem pulseEvent_spacing : (pulseEvent s).spacing = s.spacing - 1 := by
  rw [pulseEvent_eq]; simp [pulseClaims_spacing]

theorem pulseEvent_listening : (pulseEvent s).listening =
    if s.station = .listening ∧ 1 < s.listening then s.listening - 1 else s.listening := by
  rw [pulseEvent_eq]
  by_cases hc : s.station = .listening ∧ 1 < s.listening <;> simp [pulseStation_listening, hc]

theorem pulseEvent_resetSeq : (pulseEvent s).resetSeq = s.resetSeq.map fun n => if n = 0 then 1 else n := by
  rw [pulseEvent_eq]; simp [pulseStation_resetSeq]

theorem pulseEvent_agenda : (pulseEvent s).agenda = pulseAgenda s := rfl

theorem places_iff : s.places = true ↔ s.station = .listening ∨ s.station = .running := by
  unfold State.places; cases s.station <;> simp

theorem pulseWork_deadlinesDue : (pulseWork s).deadlinesDue = s.deadlinesDue ++ [s.interval + 1] := by
  unfold pulseWork; dsimp only; split <;> simp

theorem pulseWork_closesDue : (pulseWork s).closesDue =
    (s.openIntervals.filter (·.due s.interval)).map fun o => (o.interval, o.dir) := by
  unfold pulseWork; dsimp only; split <;> simp

theorem pulseWork_placementsDue : (pulseWork s).placementsDue =
    if s.station = .listening ∨ s.station = .running then s.placementsDue ++ [s.interval + 2] else s.placementsDue := by
  unfold pulseWork; dsimp only
  simp only [← places_iff]; split <;> simp_all

theorem pulseEvent_deadlinesDue : (pulseEvent s).deadlinesDue = s.deadlinesDue ++ [s.interval + 1] := by
  rw [pulseEvent_eq]; simp [pulseWork_deadlinesDue]

theorem pulseEvent_closesDue : (pulseEvent s).closesDue =
    (s.openIntervals.filter (·.due s.interval)).map fun o => (o.interval, o.dir) := by
  rw [pulseEvent_eq]; simp [pulseWork_closesDue]

theorem pulseEvent_placementsDue : (pulseEvent s).placementsDue =
    if s.station = .listening ∨ s.station = .running then s.placementsDue ++ [s.interval + 2] else s.placementsDue := by
  rw [pulseEvent_eq]; simp [pulseWork_placementsDue]

end Sys2Proof.Machine
end

