-- ==== Sys2Proof/WellFormed.lean ====
section
/-! DEFINITION. Which command terms a sender can produce: the operands that are lists have the lengths the
spec gives them. The meanings are total on ill-formed terms too (a missing byte of the profile image reads
FFh, R173; a cut frame is not whole, R151). -/
namespace Sys2Proof

/-- A profile read delivers 33 bytes (R173). A frame is delivered from its dominant start cell on, and
is at most 38 + 8 × 64 cells long (R151). Every other operand is well formed by its type. -/
def Instr.wellFormed : Instr → Bool
  | .hardwareReset => true
  | .loading _ => true
  | .profileLoad image => image.length == 33
  | .spulseEdge _ => true
  | .pulseLoss => true
  | .admissionHoldEnd _ => true
  | .silenceTimeout _ => true
  | .dormancy _ => true
  | .quarantineEnd _ => true
  | .soundPendingExpiry _ => true
  | .bandHeld _ => true
  | .refreshClaim _ => true
  | .settleEnd _ => true
  | .claimTransmitLimit _ => true
  | .lastAssertExpiry _ => true
  | .neighbourEntryExpiry _ => true
  | .listeningEnd => true
  | .resetSequenceTimeout => true
  | .placementBegin => true
  | .dataGrant => true
  | .fallbackGrant => true
  | .placementCompletion => true
  | .idleRelease _ => true
  | .grantListDeadline _ => true
  | .closeByTimeout _ _ => true
  | .frameReceived cells => cells.head? == some false && decide (cells.length ≤ 550)
  | .attach => true
  | .detach => true
  | .quality => true
  | .range => true
  | .buffer => true
  | .usage => true
  | .claim => true
  | .bandRelease => true
  | .peerAdmit => true
  | .queryByTag => true
  | .queryOfStation => true
  | .release => true
  | .retrain => true
  | .clear => true
  | .reset => true
  | .frameTransmitStart _ => true
  | .frameSent => true
  | .transmitError => true

end Sys2Proof
end

