-- ==== Sys2Proof/Tests/Slice0.lean ====
section
/-! SUPPORT. Tests and witnesses. The expected values of a test come from the place of spec/ its docstring names; a
witness (`witness_<statement>`) shows, on concrete states, that the hypotheses of a statement's clauses can be met. -/
namespace Sys2Proof.Machine

/-! ### Helpers -/

/-- Put a context into a slot, under a tag. -/
def State.serving (s : State) (i : Slot) (g : Tag) (c : Context) : State :=
  (s.putTag g ⟨some i, 0⟩).putCtx i { c with tag := some g }

/-- One telegram in the receive buffer. -/
def State.hearing (s : State) (k : Kind) (source : Station) (p : List Byte) : State :=
  s.setRxBuffer [{ kind := k, source := source, payload := p }]

end Sys2Proof.Machine

namespace Sys2Proof.Tests
open Sys2Proof Sys2Proof.Machine
set_option Elab.async false

/-- The state a command answers. -/
def after (c : Instr) (s : State) : State :=
  match exec c s with
  | .next t => t
  | .fault _ => s
  | .refused _ => s

/-- The state after several commands. -/
def run (cs : List Instr) (s : State) : State := cs.foldl (fun s c => after c s) s

/-- Station 5, RUNNING at interval 100: partner modem 1, management card 2, neighbours 2 and 9. -/
def busy : State := { State.reset with
  resetN := true, ownStation := 5, station := .running, synced := true, interval := 100
  profile := { Profile.default with partner := 1, management := 3, neighbourMask := 0x0204#16 } }

/-- The same with another interval. -/
def busyAt (n : Interval) : State := busy.setInterval n

/-- An ACTIVE terminal of identity 7 at the default initial average. -/
def user : Context := { Context.free with
  life := .active, identity := some 7, ta := 500, attachQuality := 9, qWide := 9, average := ⟨16384, 16384⟩ }

/-- A telegram that waits in the transmit queue, and the same on the wire. -/
def waiting (k : Kind) (o : Owner) : TxTelegram := telegram k 15 [] o
def sending (k : Kind) (o : Owner) : TxTelegram := { telegram k 15 [] o with onWire := true }

/-- Own claim records. -/
def announcedAt (a : Interval) : OwnClaim := { OwnClaim.reset with state := .announced, announced := some a }
def heldSince (a : Interval) : OwnClaim := { announcedAt a with state := .held, phase := some 64 }

/-- A record of slot 4 (tag 60) in interval 3002 DL. -/
def record : Record where
  interval := 3002
  dir := .dl
  slot := 4
  tag := 60
  band := 0
  start := 0
  size := 4
  count := 4
  order := .interleaved
  reach := .near
  quality := 9
  granted := 624
  carrier := some 0
  delivered := none
  orphan := false

/-! ### Well-formedness -/

/-- A profile read delivers 33 bytes (R173). -/
theorem test_wellFormed_profileLoad : (Instr.profileLoad (List.replicate 33 0)).wellFormed = true ∧
    (Instr.profileLoad (List.replicate 32 0)).wellFormed = false := by decide +kernel

/-- A frame begins with a dominant start cell and has at most 550 cells (R151). -/
theorem test_wellFormed_frameReceived : (Instr.frameReceived (List.replicate 550 false)).wellFormed = true ∧
    (Instr.frameReceived (List.replicate 551 false)).wellFormed = false ∧
    (Instr.frameReceived [true]).wellFormed = false ∧ (Instr.frameReceived []).wellFormed = false := by decide +kernel

/-- The table gives no row bits, so no word spells a command. -/
theorem test_no_word : decodeTableWord 8 0 = none ∧ (busy.withFetchWord 8 0).pending = [] := by decide +kernel

/-! ### Order, geometry, arithmetic and formats -/

/-- 01, Worked comparisons. -/
theorem test_earlier : earlier 4090 5 = true ∧ earlier 5 4090 = false ∧ earlier 1000 3047 = true ∧
    earlier 1000 3048 = false ∧ earlier 3048 1000 = false ∧ earlier 700 700 = false ∧ age 10 4000 = 106 := by
  decide +kernel

/-- 01, Visiting orders for L = 4, row s = 1; Worked cases of truncation 1 and 2. -/
theorem test_covered : covered .sequential 0 4 1 4 = [1, 2, 3, 0] ∧ covered .interleaved 0 4 1 4 = [1, 0, 3, 2] ∧
    coveredOf .sequential 29 4 3 = [29, 30, 31] ∧ coveredOf .interleaved 29 4 3 = [29, 28, 31] ∧
    coveredOf .interleaved 17 8 5 = [17, 16, 19, 18, 21] := by decide +kernel

/-- 06, Metric in the four modes; Overflow; Underflow; the average of 0 (R101). -/
theorem test_metric : metric .nearest 96 1 512000 = (393, none) ∧ metric .up 96 1 512000 = (394, none) ∧
    metric .up 396 3 198 = (16777215, some .overflow) ∧ metric .up 396 3 199 = (16692909, none) ∧
    metric .down 12 0 14000000 = (0, some .underflow) ∧ metric .nearest 12 0 14000000 = (1, none) ∧
    metric .down 12 0 0 = (16777215, some .divzero) := by decide +kernel

/-- 06, Average update with a negative difference; the rounding table of R99 at −2.5. -/
theorem test_average : averageUpdate .nearest 6 512100 288 = 505250 ∧ averageUpdate .towardZero 6 512100 288 = 505251 ∧
    averageUpdate .up 6 512100 288 = 505251 ∧ averageUpdate .down 6 512100 288 = 505250 ∧
    roundQuotient .nearest (-10) 4 = -2 ∧ roundQuotient .towardZero (-10) 4 = -2 ∧ roundQuotient .up (-10) 4 = -2 ∧
    roundQuotient .down (-10) 4 = -3 := by decide +kernel

/-- The check of generator 1021h preset to FFFFh over the nine bytes 31h to 39h is 29B1h (the published check value of that
CRC; the spec gives none). -/
theorem test_crc : crc16 (((List.range 9).map fun n => 0x31 + n).flatMap (fieldCells 8)) = 0x29B1#16 := by decide +kernel

/-- 09, Layouts: an ATTACH of identity 3A1C05h, NOMADIC, class 2, quality 9, delay 500, written out bit by bit. -/
theorem test_attach_layout : readAttach [0x3A#8, 0x1C#8, 0x05#8, 0b11010010#8, 0b00000001#8, 0b11110100#8] =
    some { identity := 0x3A1C05#24, kind := .nomadic, cls := 2, quality := 9, delay := 500 } := by decide +kernel

/-- 09, Layouts: a QUALITY of tag 41, q 9 to 4, timing error −2. -/
theorem test_quality_layout : readQuality [41#8, 0x98#8, 0x76#8, 0x54#8, 0b01111110#8] =
    some { tag := 41, q := #v[9, 8, 7, 6, 5, 4], error := -2 } := by decide +kernel

/-! ### Resets and start-up -/

/-- R178: contexts, queues and profile are cleared, ALERT_N is released. -/
theorem test_hardwareReset : let t := after .hardwareReset ((busy.serving 3 41 user).setFlags 1)
    t.station = .loading ∧ (t.ctx 3).life = .free ∧ t.slotOf 41 = none ∧ t.flags = 0 ∧ t.profile.partner = 0 := by
  decide +kernel

/-- R172: straps 5 and straps 15. -/
theorem test_loading : (after (.loading 5) State.reset).ownStation = 5 ∧
    (after (.loading 5) State.reset).station = .loading ∧ (after (.loading 15) State.reset).station = .halted := by
  decide +kernel

/-- R173: marker FFh halts; with 6Ch, K 6 is clamped to 4, quota 7 to 6, H 0 to 50, partner 15 to 14. -/
theorem test_profileLoad : let s := after (.loading 5) State.reset
    (after (.profileLoad []) s).station = .halted ∧
    (let t := after (.profileLoad (0x6C#8 :: 0xF3#8 :: [0#8, 0#8, 0xF8#8] ++ List.replicate 28 0)) s
     t.station = .syncing ∧ t.profile.partner = 14 ∧ t.profile.management = 3 ∧ t.profile.soundingUnits = 4 ∧
     t.profile.quota = 6 ∧ t.profile.horizon = 50) := by decide +kernel

/-- 11, A start-up sequence: the mark in SYNCING starts LISTENING at 128; the last count enters RUNNING. -/
theorem test_listeningEnd : let s := after (.spulseEdge true) ((busy.setStation .syncing).setSynced false)
    s.station = .listening ∧ s.listening = 128 ∧ s.interval = 0 ∧
    (after .listeningEnd (s.setAgenda [.listeningEnd])).station = .running := by decide +kernel

/-- R177: the second pulse of a reset sequence makes the reset take effect. -/
theorem test_resetSequenceTimeout :
    let t := after .resetSequenceTimeout ((busy.setResetSeq (some 1)).setAgenda [.resetSequenceTimeout])
    t.station = .syncing ∧ t.resetSeq = none ∧ t.synced = false ∧ t.ownStation = 5 := by decide +kernel

/-- 11, A start-up sequence: a RESET with two bands HELD queues two BAND RELEASE telegrams. -/
theorem test_reset : let t := after .reset (((busy.putOwn 0 (heldSince 90)).putOwn 2 (heldSince 95)).hearing .reset 3 [])
    t.resetSeq = some 0 ∧ t.station = .running ∧ t.txQueue.length = 2 ∧ (t.own 2).state = .releasing := by decide +kernel

/-! ### The interval timer -/

/-- R5: the count wraps without the mark and raises no fault. R6: a mark at another count raises TIMING_FAULT. -/
theorem test_spulseEdge : (after (.spulseEdge false) (busyAt 4095)).interval = 0 ∧
    (after (.spulseEdge false) (busyAt 4095)).flags = 0 ∧ (after (.spulseEdge true) busy).interval = 0 ∧
    (after (.spulseEdge true) busy).raised .timingFault = true := by decide +kernel

/-- 11, A start-up sequence: a loss suspends and keeps the number; the next mark goes straight to RUNNING. -/
theorem test_pulseLoss : let s := after .pulseLoss (busyAt 900)
    s.station = .suspended ∧ s.interval = 900 ∧ s.raised .timingFault = true ∧
    (after (.spulseEdge true) s).station = .running := by decide +kernel

/-! ### Contexts -/

/-- 02, A context's life: pulse 703 ends the hold. -/
theorem test_admissionHoldEnd :
    let t := run [.spulseEdge false, .admissionHoldEnd 9] ((busyAt 702).serving 9 17 { user with life := .admitting, hold := 1 })
    t.interval = 703 ∧ (t.ctx 9).life = .active ∧ (t.ctx 9).hold = 0 ∧ t.agenda = [] := by decide +kernel

/-- 02, A context's life: silence code A, count 24; ACTIVE enters RECOVERY, RECOVERY is released LOST. -/
theorem test_silenceTimeout :
    let s := busy.setProfile { busy.profile with silenceNomadic := .a }
    let c := { user with kind := .nomadic, silence := 24, backlog := ⟨5, 0⟩ }
    let t := after (.silenceTimeout 9) ((s.serving 9 17 c).setAgenda [.silenceTimeout 9])
    let u := after (.silenceTimeout 9) ((s.serving 9 17 { c with life := .recovery }).setAgenda [.silenceTimeout 9])
    (t.ctx 9).life = .recovery ∧ (t.ctx 9).retrain = true ∧ (t.ctx 9).silence = 0 ∧
    (u.ctx 9).life = .free ∧ u.tagEntry 17 = ⟨none, 64⟩ ∧ u.flags = 0 ∧
    u.txQueue.map (·.payload) = [[17#8, 2#8]] := by decide +kernel

/-- R27: the dormancy count reaches D = 500. -/
theorem test_dormancy :
    let t := after (.dormancy 9) ((busy.serving 9 17 { user with dormancy := 499 }).setAgenda [.dormancy 9])
    (t.ctx 9).life = .dormant ∧ (t.ctx 9).dormancy = 0 := by decide +kernel

/-- R18: a count of 1 ends at the next pulse. -/
theorem test_quarantineEnd :
    ((after (.quarantineEnd 17) ((busy.putTag 17 ⟨none, 1⟩).setAgenda [.quarantineEnd 17])).tagEntry 17).quarantine = 0 := by
  decide +kernel

/-- R61: a count of 7 becomes absent at the next pulse. -/
theorem test_soundPendingExpiry :
    let s := (busy.serving 9 17 { user with sound := some 7 }).setAgenda [.soundPendingExpiry 9]
    ((after (.soundPendingExpiry 9) s).ctx 9).sound = none := by decide +kernel

/-- 02, Tag search example: tag 254 valid, 255 quarantined, 0 unassigned; slots 0 to 2 in use. -/
theorem test_attach :
    let s := (((((busy.serving 0 254 { user with identity := some 1 }).serving 1 11 { user with identity := some 2 }).serving
      2 12 { user with identity := some 3 }).putTag 255 ⟨none, 20⟩).setTagPtr 254)
    let t := after .attach (s.hearing .attach 1 [0x3A#8, 0x1C#8, 0x05#8, 0b11010010#8, 0b00000001#8, 0b11110100#8])
    t.slotOf 0 = some 3 ∧ t.tagPtr = 1 ∧ (t.ctx 3).life = .admitting ∧ (t.ctx 3).admitted = 100 ∧ (t.ctx 3).hold = 4 ∧
    t.txQueue.map (·.kind) = [.tagAssign, .admission] := by decide +kernel

/-- R43, R46: a delay of 901 is beyond the TA limit 900. -/
theorem test_attach_refused :
    let t := after .attach (busy.hearing .attach 1 [0x3A#8, 0x1C#8, 0x05#8, 0b11010010#8, 0b00000011#8, 0b10000101#8])
    t.raised .rangeOut = true ∧ t.txQueue.map (·.payload) = [[0x3A#8, 0x1C#8, 0x05#8, 1#8]] ∧ t.tagPtr = 0 := by
  decide +kernel

/-- R48: DETACHED has code 1. -/
theorem test_detach : let t := after .detach ((busy.serving 9 17 user).hearing .detach 1 [17#8])
    (t.ctx 9).life = .free ∧ t.tagEntry 17 = ⟨none, 64⟩ ∧ t.txQueue.map (·.payload) = [[17#8, 1#8]] := by decide +kernel

/-- 03, wideband examples; R50: TA 500 and error −2; R51: error 8 is drift-sized. -/
theorem test_quality :
    let s := busy.serving 9 41 { user with age := 77, silence := 5 }
    let t := after .quality (s.hearing .quality 1 [41#8, 0x78#8, 0x99#8, 0xAB#8, 0b01111110#8])
    let u := after .quality (s.hearing .quality 1 [41#8, 0x78#8, 0x99#8, 0xAB#8, 8#8])
    (t.ctx 9).qWide = 9 ∧ (t.ctx 9).ta = 498 ∧ (t.ctx 9).age = 0 ∧ (t.ctx 9).silence = 0 ∧ (t.ctx 9).life = .active ∧
    (u.ctx 9).life = .recovery ∧ (u.ctx 9).ta = 500 := by decide +kernel

/-- R52: a RANGE of 600 returns RECOVERY to ACTIVE; at 600 a NEAR context becomes FAR (R56). -/
theorem test_range :
    let t := after .range ((busy.serving 9 41 { user with life := .recovery, retrain := true }).hearing .range 1
      [41#8, 0x02#8, 0x58#8])
    (t.ctx 9).life = .active ∧ (t.ctx 9).retrain = false ∧ (t.ctx 9).reach = .far ∧ t.raised .reachChange = true := by
  decide +kernel

/-- 03, BUFFER table: 1,200 bytes with 3,072 pending give 6,528; a DORMANT context wakes stale (R28). -/
theorem test_buffer :
    let t := after .buffer ((busy.serving 9 41 { user with life := .dormant, pending := ⟨3072, 0⟩ }).hearing .buffer 1
      [41#8, 0#8, 0#8, 0x04#8, 0xB0#8])
    (t.ctx 9).backlog = ⟨6528, 0⟩ ∧ (t.ctx 9).life = .active ∧ (t.ctx 9).age = 4095 := by decide +kernel

/-! ### Band claims -/

/-- 05, A claim from demand to hold: pulse 3508. -/
theorem test_bandHeld :
    let s := (busyAt 3508).putOwn 2 { announcedAt 3500 with phase := some 1 }
    let t := after (.bandHeld 2) (s.setAgenda [.bandHeld 2])
    t.own 2 = heldSince 3500 := by decide +kernel

/-- 05, A long hold: at pulse 436 the stored 3500 is 1032 old, and 3508 is carried. -/
theorem test_refreshClaim :
    let s := (busyAt 436).putOwn 2 { heldSince 3500 with phase := some 1 }
    let t := after (.refreshClaim 2) (s.setAgenda [.refreshClaim 2])
    (t.own 2).announced = some 3508 ∧ (t.own 2).outstanding = some 436 ∧ (t.own 2).phase = some 64 ∧
    t.txQueue.map (·.payload) = [[0x4D#8, 0xB4#8]] := by decide +kernel

/-- R85: the settle count reaches 0. -/
theorem test_settleEnd :
    let s := busy.putOwn 2 { OwnClaim.reset with state := .releasing, phase := some 1 }
    let t := after (.settleEnd 2) (s.setAgenda [.settleEnd 2])
    (t.own 2).state = .free ∧ (t.own 2).phase = none := by decide +kernel

/-- R79: a first CLAIM queued at 99 is removed at pulse 101, and the band returns to FREE. -/
theorem test_claimTransmitLimit :
    let s := ((busyAt 101).putOwn 2 { announcedAt 99 with outstanding := some 99 }).setTxQueue [waiting .claim (.claim 2)]
    let t := after (.claimTransmitLimit 2) (s.setAgenda [.claimTransmitLimit 2])
    t.own 2 = OwnClaim.reset ∧ t.txQueue = [] := by decide +kernel

/-- R77: an assert of 93 is absent at pulse 101. -/
theorem test_lastAssertExpiry :
    let s := ((busyAt 101).putOwn 2 { heldSince 90 with lastAssert := some 93 }).setAgenda [.lastAssertExpiry 2]
    ((after (.lastAssertExpiry 2) s).own 2).lastAssert = none := by decide +kernel

/-- R91: an entry of age 191 is removed. -/
theorem test_neighbourEntryExpiry :
    let s := (busy.putNeighbour 2 (some ⟨9, 50, 191⟩)).setAgenda [.neighbourEntryExpiry 2]
    (after (.neighbourEntryExpiry 2) s).neighbour 2 = none := by decide +kernel

/-- R84, R85: idle count 127 at a completion without FAR grants; its GRANT LIST is queued first. -/
theorem test_idleRelease :
    let s := run [.placementBegin, .placementCompletion, .idleRelease 2]
      ((busy.putOwn 2 { heldSince 90 with idle := 127 }).setPlacementsDue [102])
    (s.own 2).state = .releasing ∧ (s.own 2).phase = some 4 ∧ s.txQueue.map (·.kind) = [.grantList, .bandRelease] := by
  decide +kernel

/-- 05, A long hold: station 5 hears (2, 520), answers with 3592. -/
theorem test_claim_assert :
    let t := after .claim (((busyAt 520).putOwn 2 (heldSince 3572)).hearing .claim 2 [0x42#8, 0x08#8])
    (t.own 2).announced = some 3592 ∧ (t.own 2).lastAssert = some 520 ∧ (t.own 2).phase = some 64 ∧
    t.neighbour 2 = none ∧ t.txQueue.map (·.payload) = [[0x4E#8, 0x08#8]] := by decide +kernel

/-- 05, Two claims that cross, seen with the roles of station 9 and station 5: the lower station wins, the loser backs
off. -/
theorem test_claim_lost :
    let t := after .claim ((((busyAt 3520).setOwnStation 9).putOwn 3 { announcedAt 3520 with phase := some 8 }).hearing
      .claim 5 [0x6D#8, 0xC0#8])
    (t.own 3).state = .free ∧ (t.own 3).backoff = 64 ∧ t.raised .claimLost = true ∧
    t.neighbour 3 = some ⟨5, 3520, 0⟩ := by decide +kernel

/-- R91: from the recorded station only. -/
theorem test_bandRelease :
    let s := busy.putNeighbour 2 (some ⟨9, 50, 10⟩)
    (after .bandRelease (s.hearing .bandRelease 9 [0x40#8])).neighbour 2 = none ∧
    (after .bandRelease (s.hearing .bandRelease 2 [0x40#8])).neighbour 2 = some ⟨9, 50, 10⟩ := by decide +kernel

/-- 02, Handover contest example: station 7 wins by the earlier interval and answers. -/
theorem test_admit_won :
    let t := after .peerAdmit ((((busyAt 20).setOwnStation 7).serving 12 40
      { user with identity := some 0x3A1C05#24, attachQuality := 6, admitted := 4090 }).hearing .admission 4
        [0x3A#8, 0x1C#8, 0x05#8, 0x60#8, 0x05#8])
    (t.ctx 12).life = .active ∧ t.txQueue.map (·.payload) = [[0x3A#8, 0x1C#8, 0x05#8, 0x6F#8, 0xFA#8]] := by
  decide +kernel

/-- The same at station 4: it loses and releases HANDED_OVER, code 3. -/
theorem test_admit_lost :
    let t := after .peerAdmit ((((busyAt 20).setOwnStation 4).serving 3 201
      { user with identity := some 0x3A1C05#24, attachQuality := 6, admitted := 5 }).hearing .admission 7
        [0x3A#8, 0x1C#8, 0x05#8, 0x6F#8, 0xFA#8])
    (t.ctx 3).life = .free ∧ t.tagEntry 201 = ⟨none, 64⟩ ∧ t.txQueue.map (·.payload) = [[201#8, 3#8]] := by
  decide +kernel

/-! ### The placement -/

/-- 07, A worked placement: station 5 after pulse 2048. -/
def worked : State :=
  let at1 := { user with age := 12, q := some #v[9, 9, 8, 7, 6, 9], backlog := ⟨600, 1000⟩ }
  let at2 := { user with identity := some 8, age := 30, reach := .far, cls := 1, q := some #v[6, 5, 4, 4, 5, 6]
                         backlog := ⟨2000, 900⟩ }
  let at3 := { user with identity := some 9, age := 5, q := some #v[10, 10, 10, 10, 10, 10], average := ⟨32768, 5⟩
                         backlog := ⟨150, 0⟩ }
  let at4 := { user with identity := some 10, age := 130, q := some #v[8, 8, 8, 8, 8, 8], backlog := ⟨500, 0⟩ }
  let at5 := { user with identity := some 11, age := 150, reach := .far, cls := 2, q := some #v[7, 7, 7, 7, 7, 7]
                         backlog := ⟨0, 300⟩ }
  (((((((((busyAt 2048).serving 3 41 at1).serving 8 90 at2).serving 12 7 at3).serving 20 133 at4).serving 25 200
    at5).putOwn 0 { heldSince 2000 with idle := 5 }).putNeighbour 5 (some ⟨9, 2000, 3⟩)).setFallbackPtr
    ⟨15, 0⟩).setPlacementsDue [2050]

/-- 07, Snapshot: STALE, the two SOUND entries of the second tier. -/
theorem test_placementBegin :
    let t := after .placementBegin worked
    t.raised .stale = true ∧ t.inFlight = 8 ∧ (t.flight.map fun f => f.sounds) = some [(200, 47), (133, 46)] ∧
    (t.flight.map fun f => f.target) = some 2050 ∧ (t.ctx 25).sound = some 0 ∧ (t.ctx 3).sound = none := by decide +kernel

/-- 07, DL grid, the first two grants: start 1, L 4, k 4, 624 bits; start 6, L 4, k 4, 304 bits. -/
theorem test_dataGrant :
    let t := run [.placementBegin, .dataGrant, .dataGrant] worked
    t.records.map (fun r => (r.tag, r.start, r.size, r.count, r.granted)) = [(41, 1, 4, 4, 624), (90, 6, 4, 4, 304)] ∧
    (t.ctx 3).backlog.dl = 0 ∧ (t.ctx 3).pending.dl = 624 ∧ (t.ctx 8).backlog.dl = 1696 := by decide +kernel

/-- R147: slot 3's terminal detaches after the snapshot; its grant is laid, but no record names it (R127 removes the entry). -/
theorem test_dataGrant_released :
    let t := run [.detach, .dataGrant] ((after .placementBegin worked).hearing .detach 1 [41#8])
    t.records = [] ∧ (t.ctx 3).life = .free ∧ (t.flight.map fun f => f.grants.map (·.tag)) = some [41] ∧
    (t.flight.map fun f => isFree f.grids.dl 1) = some false := by decide +kernel

/-- 07, DL fallback: unit 9 for slot 20, pointer 21. -/
theorem test_fallbackGrant :
    let t := run [.placementBegin, .dataGrant, .dataGrant, .dataGrant, .fallbackGrant] worked
    (t.records.drop 2).map (fun r => (r.tag, r.start, r.size, r.count, r.granted)) = [(7, 8, 1, 1, 190), (133, 9, 1, 1, 12)] ∧
    t.fallbackPtr = ⟨21, 0⟩ ∧ (t.ctx 20).backlog.dl = 488 := by decide +kernel

/-- 07, UL grid, composition and completion. -/
theorem test_placementCompletion :
    let t := run [.placementBegin, .placementCompletion] worked
    (t.records.drop 4).map (fun r => (r.tag, r.start, r.size, r.count, r.granted)) = [(41, 5, 8, 7, 1092), (90, 4, 1, 1, 76)] ∧
    (t.ctx 8).backlog.ul = 824 ∧ (t.ctx 25).backlog.ul = 300 ∧ t.cause = 8 ∧ t.farDemand = 1 ∧ (t.own 0).idle = 0 ∧
    t.openIntervals.length = 2 ∧ t.fallbackPtr = ⟨21, 0⟩ ∧ t.txQueue.map (fun x => (x.kind, x.payload.take 11)) =
      [(.grantList, [0x80#8, 0x21#8, 0x80#8, 200#8, 0xAF#8, 0x04#8, 0x00#8, 133#8, 0xAE#8, 0x04#8, 0x00#8])] := by
  decide +kernel

/-- R140, R141, R144: placed only after pulse t+4, the list is withdrawn as late, the granted 624 and 1092 bits return, and
both directions close (log entry 13). -/
theorem test_placementCompletion_late :
    let s := ((after .placementBegin worked).setInterval 2054).setDeadlinesDue [2050]
    let t := after .placementCompletion s
    t.openIntervals = [] ∧ t.records = [] ∧ t.register = [] ∧ t.deadlinesDue = [] ∧ t.raised .lateList = true ∧
    (t.ctx 3).backlog = ⟨624, 1092⟩ ∧ (t.ctx 3).pending = ⟨0, 0⟩ := by decide +kernel

/-! ### Grant records -/

/-- 08, Worked sequence: slot 4, tag 60 with a grant of 624 in 3002, open. -/
def granted : State :=
  ((((busyAt 3001).serving 4 60 { user with pending := ⟨624, 0⟩ }).setRecords [record]).setOpenIntervals
    [⟨3002, .dl, none⟩, ⟨3002, .ul, none⟩]).setRegister [⟨3002, [.queued], false⟩]

/-- R141: the deadline withdraws the telegram still queued; the rollback restores 624 bits; LATE_LIST. -/
theorem test_grantListDeadline :
    let t := after (.grantListDeadline 3002) ((granted.setTxQueue [waiting .grantList (.grantList 3002 0)]).setDeadlinesDue
      [3002])
    t.txQueue = [] ∧ t.records = [] ∧ (t.ctx 4).backlog.dl = 624 ∧ (t.ctx 4).pending.dl = 0 ∧ t.raised .lateList = true ∧
    t.listState 3002 0 = some .withdrawn := by decide +kernel

/-- 08, Close of 3002: 500 of 624 delivered; backlog 124, A = 18,128. -/
theorem test_usage :
    let t := after .usage (granted.hearing .usage 1 [0xBB#8, 0xA4#8, 1#8, 60#8, 0x1F#8, 0x40#8])
    (t.ctx 4).backlog.dl = 124 ∧ (t.ctx 4).pending.dl = 0 ∧ (t.ctx 4).average = ⟨18128, 16384⟩ ∧ t.records = [] ∧
    t.openIntervals = [⟨3002, .ul, none⟩] ∧ t.register.length = 1 := by decide +kernel

/-- 08, Timeout close of 3006: an unreported record of 156 counts in full; USAGE_TIMEOUT; A from 19,710 to 20,026. -/
theorem test_closeByTimeout :
    let s := (((granted.serving 4 60 { user with pending := ⟨156, 0⟩, average := ⟨19710, 0⟩ }).setRecords
      [{ record with granted := 156 }]).setClosesDue [(3002, .dl)])
    let t := after (.closeByTimeout 3002 .dl) s
    (t.ctx 4).average.dl = 20026 ∧ (t.ctx 4).pending.dl = 0 ∧ (t.ctx 4).backlog.dl = 0 ∧ t.raised .usageTimeout = true := by
  decide +kernel

/-! ### The bus interface -/

/-- R155, R156: a DETACH of the partner modem is kept; from another station it is discarded. -/
theorem test_frameReceived :
    (after (.frameReceived (Frame.cells ⟨13, 1, 5, [17#8]⟩)) busy).rxBuffer = [⟨.detach, 1, [17#8]⟩] ∧
    (after (.frameReceived (Frame.cells ⟨13, 4, 5, [17#8]⟩)) busy).rxBuffer = [] := by decide +kernel

/-- 09, Arbitration at one idle: station 5's CLAIM against station 2's; with nobody else it goes on. -/
theorem test_frameTransmitStart :
    let s := busy.setTxQueue [waiting .status .unreported, waiting .claim (.claim 2)]
    (after (.frameTransmitStart 0b000010010#9) s).wire = none ∧
    (after (.frameTransmitStart 0b000010101#9) s).wire.map (·.kind) = some .claim := by decide +kernel

/-- 05, A claim from demand to hold: CLAIM sent, lead 8, outstanding absent. -/
theorem test_frameSent :
    let t := after .frameSent ((busy.putOwn 2 { announcedAt 100 with outstanding := some 100 }).setTxQueue
      [sending .claim (.claim 2)])
    (t.own 2).phase = some 8 ∧ (t.own 2).outstanding = none ∧ t.txQueue = [] := by decide +kernel

/-- R153: the third attempt drops the telegram with TX_FAIL; the first does not. -/
theorem test_transmitError :
    let s := busy.setTxQueue [{ sending .tagAssign .unreported with attempts := 2 }]
    (after .transmitError s).txQueue = [] ∧ (after .transmitError s).raised .txFail = true ∧
    (after .transmitError (busy.setTxQueue [sending .tagAssign .unreported])).txQueue =
      [{ waiting .tagAssign .unreported with attempts := 1 }] := by decide +kernel

/-! ### Management -/

/-- R164: form 0 with presence 0, and with presence 1 the slot and 42 bytes. -/
theorem test_queryByTag :
    let t := after .queryByTag ((busy.serving 9 41 user).hearing .query 3 [0#8, 41#8])
    (after .queryByTag (busy.hearing .query 3 [0#8, 41#8])).txQueue.map (·.payload) = [[0#8, 41#8, 0#8]] ∧
    t.txQueue.map (fun x => (x.dest, x.payload.length, x.payload.take 5)) = [(3, 42, [0#8, 41#8, 1#8, 9#8, 0x40#8])] := by
  decide +kernel

/-- R144, R163: the timeout of 3002 DL is due at the latest pulse, so a STATUS shows its pending of 624 returned to 0. -/
theorem test_queryByTag_afterPulse :
    let t := after .queryByTag ((granted.setClosesDue [(3002, .dl)]).hearing .query 3 [0#8, 60#8])
    t.txQueue.map (fun x => (x.kind, wordAt x.payload 30 3)) = [(.status, 0)] ∧ t.openIntervals = [⟨3002, .ul, none⟩] := by
  decide +kernel

/-- R165: form 1, RUNNING, no flags, one context in use, interval 100 synchronised. -/
theorem test_queryOfStation :
    ((after .queryOfStation ((busy.serving 9 41 user).hearing .query 3 [1#8, 0#8])).txQueue.map fun x => x.payload.take 10) =
      [[1#8, 4#8, 0#8, 0#8, 0#8, 1#8, 0x80#8, 100#8, 0#8, 0#8]] := by decide +kernel

/-- R33: FORCED has code 4. -/
theorem test_release : let t := after .release ((busy.serving 9 17 user).hearing .release 3 [17#8])
    (t.ctx 9).life = .free ∧ t.txQueue.map (·.payload) = [[17#8, 4#8]] := by decide +kernel

/-- R33: RETRAIN moves ACTIVE to RECOVERY and leaves ADMITTING. -/
theorem test_retrain :
    ((after .retrain ((busy.serving 9 17 user).hearing .retrain 3 [17#8])).ctx 9).life = .recovery ∧
    ((after .retrain ((busy.serving 9 17 { user with life := .admitting }).hearing .retrain 3 [17#8])).ctx 9).life =
      .admitting := by decide +kernel

/-- 10, A sequence of conditions: STALE, LOST_FIXED and TIMING_FAULT set; a CLEAR of LOST_FIXED keeps ALERT_N low, one of
the other two releases it. -/
theorem test_clear :
    let s := (busy.setProfile { busy.profile with alertMask := 0x3040#16 }).setFlags 0x2048#16
    let t := after .clear (s.hearing .clear 3 [0x00#8, 0x40#8])
    let u := after .clear (t.hearing .clear 3 [0x20#8, 0x08#8])
    t.flags = 0x2008#16 ∧ t.alertLow = true ∧ u.flags = 0 ∧ u.alertLow = false := by decide +kernel

/-! ### Witnesses: steps, resets, timer -/

/-- A law that speaks of every direction holds if it holds of both. -/
theorem both {P : Direction → Prop} (h1 : P .dl) (h2 : P .ul) : ∀ d, P d := fun d => by cases d <;> assumption

/-- Nothing left of an event and no deadline waiting. -/
theorem rested_of {s : State} (h : s.agenda = [] ∧ s.closesDue = [] ∧ s.deadlinesDue = []) : s.rested :=
  ⟨h.1, h.2.1, by simp [h.2.2]⟩

theorem witness_StepRunsFront : (busy.setPending [.clear, .reset]).pending = .clear :: [.reset] ∧ busy.pending = [] := by
  decide +kernel

theorem witness_EveryCommandCompletes : Instr.clear ≠ .hardwareReset ∧ (∀ image, Instr.clear ≠ .profileLoad image) ∧
    ∀ n, Instr.clear ≠ .loading n := by simp

theorem witness_AgendaBeforeOtherCommands : itemOf .pulseLoss = none ∧
    itemOf (.dormancy 95) = some (.dormancy 95) ∧ Due.dormancy 95 ∉ busy.agenda ∧ busy.rested :=
  ⟨rfl, rfl, by decide +kernel, rested_of (by decide +kernel)⟩

/-- The part right after reset, and one that straps of 15 have halted. -/
theorem witness_LoadingAndHaltedIgnoreEvents :
    (StationLaw State.reset ∧ State.reset.station = .loading) ∧
    (StationLaw ((State.reset.setResetN true).setStation .halted) ∧
      ((State.reset.setResetN true).setStation .halted).station = .halted) ∧
    Instr.pulseLoss ≠ .hardwareReset ∧ (∀ n, Instr.pulseLoss ≠ .loading n) ∧ ∀ im, Instr.pulseLoss ≠ .profileLoad im := by
  refine ⟨⟨⟨by decide +kernel, by decide +kernel, by decide +kernel, fun _ => rfl⟩, rfl⟩,
    ⟨⟨by decide +kernel, by decide +kernel, by decide +kernel, fun _ => rfl⟩, rfl⟩, by simp⟩

/-- The part with RESET_N high, in LOADING. -/
def loading : State := State.reset.setResetN true

theorem witness_StartUp : State.reset.agenda = [] ∧ State.reset.resetN = false ∧ loading.agenda = [] ∧
    loading.resetN = true ∧ loading.station = .loading ∧ imageByte [] 0 ≠ 0x6C ∧
    imageByte (0x6C#8 :: List.replicate 32 0) 0 = 0x6C ∧ busy.agenda = [] ∧ busy.station ≠ .loading := by decide +kernel

/-- LISTENING with its last count. -/
def listening : State := (busy.setStation .listening).setListening 1

theorem witness_StationCountsEnd : (listening.setAgenda [.listeningEnd]).dueNow .listeningEnd ∧
    (listening.setAgenda [.listeningEnd]).station = .listening ∧
    Due.resetSequenceTimeout ∈ (busy.setAgenda [.resetSequenceTimeout]).agenda := by
  unfold State.dueNow; decide +kernel

theorem witness_ResetCommand :
    let s := busy.hearing .reset 3 []
    (s.setResetSeq (some 0)).hasHead .reset 3 [] [] ∧ (s.setResetSeq (some 0)).resetSeq ≠ none ∧
    s.hasHead .reset 3 [] [] ∧ s.resetSeq = none ∧ (∀ b, (s.own b).claimed = false) ∧
    (∀ x ∈ s.txQueue, x.ofSequence = false) ∧
    (let u := (s.putOwn 5 (heldSince 90)).setTxQueue (List.replicate 18 (waiting .alert .unreported))
     u.hasHead .reset 3 [] [] ∧ u.resetSeq = none ∧ (u.own 5).claimed = true ∧ u.txQueue.length ≤ 18) ∧
    (let u := fun k : Kind => (s.putOwn 5 (heldSince 90)).setTxQueue (List.replicate 24 (waiting k .unreported))
     let w := fun k : Kind => allBands.foldl sequenceRelease (((u k).setRxBuffer []).setResetSeq (some 0))
     (u .alert).hasHead .reset 3 [] [] ∧ (∃ y ∈ (w .alert).txQueue, y.ofSequence = true) ∧
     (u .admission).hasHead .reset 3 [] [] ∧ ∀ y ∈ (w .admission).txQueue, y.ofSequence = false) := by
  unfold State.hasHead; decide +kernel

theorem witness_UnsynchronisedPulse :
    let s := (busy.setStation .syncing).setSynced false
    let u := ((busy.setStation .suspended).setSynced false).setResume (some .running)
    let v := ((busy.setStation .suspended).setSynced false).setResume (some .listening)
    (s.rested ∧ s.acting = true ∧ s.synced = false ∧ s.station = .syncing ∧ s.resume = none) ∧
    (u.rested ∧ u.acting = true ∧ u.synced = false ∧ u.station = .suspended ∧ u.resume = some .running) ∧
    (v.rested ∧ v.acting = true ∧ v.synced = false ∧ v.station = .suspended ∧ v.resume = some .listening) :=
  ⟨⟨rested_of (by decide +kernel), by decide +kernel⟩, ⟨rested_of (by decide +kernel), by decide +kernel⟩,
    ⟨rested_of (by decide +kernel), by decide +kernel⟩⟩

/-- At 4095 with the mark, and with a deadline that waits for its placement in flight; elsewhere without it. -/
theorem witness_OrdinaryPulse :
    let s := ((busyAt 4095).setFlight (some { target := 1, candidates := ⟨[], []⟩, bands := Vector.replicate 6 ⟨.free, false⟩
                                              grids := freshGrids 2, ranges := [], sounds := [], stage := .ended
                                              grants := [] })).setDeadlinesDue [1]
    (s.rested ∧ s.acting = true ∧ s.synced = true ∧ (true = true → s.interval = 4095)) ∧
    (busy.rested ∧ busy.acting = true ∧ busy.synced = true ∧ (false = true → busy.interval = 4095)) :=
  ⟨⟨⟨rfl, rfl, List.forall_mem_singleton.2 (by decide +kernel)⟩, by decide +kernel⟩,
    ⟨rested_of (by decide +kernel), by decide +kernel⟩⟩

/-- One context of every kind of count: slot n is of the n-th clause, the last two at their limits. -/
def crowd : State :=
  let idle := { user with silence := 2498 }
  ((((((((busy.serving 1 1 { user with life := .admitting, hold := 2 }).serving 2 2
    { user with life := .admitting, hold := 1 }).serving 3 3 { idle with backlog := ⟨0, 1⟩ }).serving 4 4
    { idle with dormancy := 498 }).serving 5 5 { idle with dormancy := 499 }).serving 6 6
    { idle with life := .dormant }).serving 7 7 { idle with life := .recovery }).serving 8 8
    { user with life := .recovery, silence := 2499 })

theorem witness_PulseCounts : crowd.rested ∧ crowd.acting = true ∧ crowd.synced = true ∧
    (let c := crowd.ctx
     let limit := fun i => crowd.profile.timeout (c i).kind
     (c 0).life = .free ∧ ((c 1).life = .admitting ∧ 1 < (c 1).hold) ∧ ((c 2).life = .admitting ∧ (c 2).hold ≤ 1) ∧
     ((c 3).life = .active ∧ (c 3).silence + 1 < limit 3 ∧ (c 3).backlog ≠ ⟨0, 0⟩) ∧
     ((c 4).life = .active ∧ (c 4).silence + 1 < limit 4 ∧ (c 4).backlog = ⟨0, 0⟩ ∧
       (c 4).dormancy + 1 < crowd.profile.dormancyTime) ∧
     ((c 5).life = .active ∧ (c 5).silence + 1 < limit 5 ∧ (c 5).backlog = ⟨0, 0⟩ ∧
       crowd.profile.dormancyTime ≤ (c 5).dormancy + 1) ∧
     ((c 6).life = .dormant ∧ (c 6).silence + 1 < limit 6) ∧ ((c 7).life = .recovery ∧ (c 7).silence + 1 < limit 7) ∧
     ((c 8).life = .recovery ∧ limit 8 ≤ (c 8).silence + 1)) :=
  ⟨rested_of (by decide +kernel), by decide +kernel⟩

/-- The law of the backlogs, direction by direction. -/
theorem backlog_of {s : State} (h : ∀ i, (s.ctx i).backlog.dl ≤ backlogMax ∧ (s.ctx i).backlog.ul ≤ backlogMax) :
    BacklogLaw s := fun i => both (h i).1 (h i).2

/-- `Context.inRange` and `OwnClaim.inRange` as tests. -/
def ranged (p : Profile) (c : Context) : Bool :=
  decide (c.average.dl ≤ metricMax ∧ c.average.ul ≤ metricMax ∧ c.backlog.dl ≤ backlogMax ∧ c.backlog.ul ≤ backlogMax) &&
  decide (c.ta ≤ p.taLimit ∧ c.age ≤ 4095) && c.sound.all (decide <| · ≤ 8) &&
  decide (c.silence ≤ 4000 ∧ c.dormancy ≤ 4000 ∧ c.hold ≤ 4 ∧ c.rangeRepeat ≤ 8)
def claimRanged (c : OwnClaim) : Bool :=
  c.announced.isSome == c.claimed && decide (c.backoff ≤ 64 ∧ c.idle ≤ 128) &&
  match c.state with
  | .free => c.phase.isNone
  | .announced => c.phase.all (decide <| · ≤ 8)
  | .held => c.phase.any (decide <| · ≤ 64)
  | .releasing => c.phase.any (decide <| · ≤ 4)

theorem inRange_of_ranged {p : Profile} {c : Context} (h : ranged p c = true) : c.inRange p := by
  simp only [ranged, Bool.and_eq_true, decide_eq_true_eq] at h
  obtain ⟨⟨⟨h1, h2⟩, h3⟩, h4⟩ := h
  refine ⟨both h1.1 h1.2.1, both h1.2.2.1 h1.2.2.2, h2.1, h2.2, fun n e => ?_, h4⟩
  simpa [e] using h3

theorem inRange_of_claimRanged {c : OwnClaim} (h : claimRanged c = true) : c.inRange := by
  obtain ⟨state, announced, phase, outstanding, backoff, idle, lastAssert⟩ := c
  cases state <;> cases announced <;> cases phase <;>
    simp_all [claimRanged, OwnClaim.inRange, OwnClaim.claimed]

/-- The range law from its parts. -/
theorem range_of {s : State} (h1 : s.profile.inRange) (h2 : ∀ i, ranged s.profile (s.ctx i) = true)
    (h3 : (∀ g, (s.tagEntry g).quarantine ≤ 64) ∧ (∀ b, claimRanged (s.own b) = true) ∧
      (∀ b, (s.neighbour b).all (fun e => decide (e.age ≤ 191)) = true) ∧ s.farDemand ≤ 8 ∧ s.spacing ≤ 16 ∧
      s.listening ≤ 128 ∧ s.resetSeq.all (decide <| · ≤ 1) = true) : RangeLaw s := by
  obtain ⟨h4, h5, h6, h7, h8, h9, h10⟩ := h3
  refine ⟨h1, fun i => inRange_of_ranged (h2 i), h4, fun b => inRange_of_claimRanged (h5 b), fun b e he => ?_, h7, h8, h9,
    fun n hn => ?_⟩
  · simpa [he] using h6 b
  · simpa [hn] using h10

theorem witness_MarkMismatch : (busyAt 4094).rested ∧ (busyAt 4094).acting = true ∧ (busyAt 4094).synced = true ∧
    (busyAt 4094).interval ≠ 4095 ∧ BacklogLaw (busyAt 4094) := by
  refine ⟨rested_of (by decide +kernel), by decide +kernel, by decide +kernel, by decide +kernel,
    backlog_of (by decide +kernel)⟩

theorem witness_PulseLossSuspends :
    let s := busy.setSynced false
    let u := busy.setResetSeq (some 1)
    (s.rested ∧ s.acting = true ∧ s.synced = false) ∧ (u.rested ∧ u.acting = true ∧ u.synced = true ∧ u.resetSeq ≠ none) ∧
    (listening.rested ∧ listening.acting = true ∧ listening.synced = true ∧ listening.resetSeq = none ∧
      BacklogLaw listening ∧ listening.station = .listening) ∧
    (busy.rested ∧ busy.acting = true ∧ busy.synced = true ∧ busy.resetSeq = none ∧ BacklogLaw busy ∧
      busy.station = .running) := by
  exact ⟨⟨rested_of (by decide +kernel), by decide +kernel⟩, ⟨rested_of (by decide +kernel), by decide +kernel⟩,
    ⟨rested_of (by decide +kernel), by decide +kernel, by decide +kernel, by decide +kernel,
      backlog_of (by decide +kernel), by decide +kernel⟩,
    ⟨rested_of (by decide +kernel), by decide +kernel, by decide +kernel, by decide +kernel,
      backlog_of (by decide +kernel), by decide +kernel⟩⟩

/-! ### Witnesses: contexts and the partner modem's telegrams -/

/-- `crowd` with one threshold on the agenda. -/
def State.owing (d : Due) : State := crowd.setAgenda [d]

theorem witness_ContextTimersEnd :
    let s := State.owing
    let limit := fun i => crowd.profile.timeout (crowd.ctx i).kind
    let v := (State.owing (.silenceTimeout 9)).serving 9 9 { user with silence := 2499 }
    let w := (State.owing (.silenceTimeout 9)).serving 9 9 { user with life := .dormant, silence := 2499 }
    ((s (.admissionHoldEnd 2)).dueNow (.admissionHoldEnd 2) ∧ (crowd.ctx 2).life = .admitting ∧ (crowd.ctx 2).hold ≤ 1) ∧
    ((s (.dormancy 5)).dueNow (.dormancy 5) ∧ (crowd.ctx 5).life = .active ∧ (crowd.ctx 5).silence + 1 < limit 5 ∧
      (crowd.ctx 5).backlog = ⟨0, 0⟩ ∧ crowd.profile.dormancyTime ≤ (crowd.ctx 5).dormancy + 1) ∧
    (v.dueNow (.silenceTimeout 9) ∧ limit 9 ≤ (v.ctx 9).silence + 1 ∧ (v.ctx 9).life = .active) ∧
    (w.dueNow (.silenceTimeout 9) ∧ limit 9 ≤ (w.ctx 9).silence + 1 ∧ (w.ctx 9).life = .dormant) ∧
    ((s (.silenceTimeout 8)).dueNow (.silenceTimeout 8) ∧ limit 8 ≤ (crowd.ctx 8).silence + 1 ∧
      (crowd.ctx 8).life = .recovery) ∧
    (s (.quarantineEnd 255)).dueNow (.quarantineEnd 255) ∧ (s (.soundPendingExpiry 95)).dueNow (.soundPendingExpiry 95) := by
  unfold State.dueNow; decide +kernel

theorem witness_ReleaseFreesContext :
    (crowd.acting = true ∧ (crowd.ctx 8).tag = some 8 ∧ crowd.txQueue.length < 24 ∧ (crowd.ctx 8).kind = .fixed) ∧
    (let s := crowd.hearing .detach 1 (bytesOf 1 8)
     s.hasHead .detach 1 (bytesOf 1 8) [] ∧ s.slotOf 8 = some 8) ∧
    (let s := (busy.putTag 8 ⟨none, 1⟩).hearing .detach 1 (bytesOf 1 8)
     s.hasHead .detach 1 (bytesOf 1 8) [] ∧ s.slotOf 8 = none ∧ 0 < (s.tagEntry 8).quarantine) ∧
    (let s := busy.hearing .detach 1 (bytesOf 1 255)
     s.hasHead .detach 1 (bytesOf 1 255) [] ∧ s.slotOf 255 = none ∧ (s.tagEntry 255).quarantine = 0) ∧
    (let s := crowd.hearing .release 3 (bytesOf 1 8)
     s.hasHead .release 3 (bytesOf 1 8) [] ∧ s.slotOf 8 = some 8 ∧ s.slotOf 255 = none) := by
  unfold State.hasHead; decide +kernel

theorem witness_TelegramsNotActedOn :
    kindOf .quality = some .quality ∧ busy.agenda = [] ∧ busy.rxBuffer = [] ∧
    (busy.hearing .range 1 []).rxBuffer = { kind := .range, source := 1, payload := [] } :: [] ∧ Kind.range ≠ .quality ∧
    (busy.hearing .quality 1 [0#8, 0#8, 0#8, 0#8]).hasHead .quality 1 [0#8, 0#8, 0#8, 0#8] [] ∧
    layoutHolds .quality [0#8, 0#8, 0#8, 0#8] = false ∧
    (let s := (busy.putTag 255 ⟨none, 64⟩).hearing .quality 1 [255#8, 0#8, 0#8, 0#8, 0#8]
     s.hasHead .quality 1 (255#8 :: [0#8, 0#8, 0#8, 0#8]) [] ∧ layoutHolds .quality (255#8 :: [0#8, 0#8, 0#8, 0#8]) = true ∧
     (255#8).toNat = (255 : Tag).val ∧ s.slotOf 255 = none ∧ 0 < (s.tagEntry 255).quarantine) ∧
    (let s := busy.hearing .range 1 [255#8, 0#8, 0#8]
     s.hasHead .range 1 (255#8 :: [0#8, 0#8]) [] ∧ layoutHolds .range (255#8 :: [0#8, 0#8]) = true ∧
     s.slotOf 255 = none ∧ (s.tagEntry 255).quarantine = 0) := by
  unfold State.hasHead; decide +kernel

/-- An ATTACH of identity 7 with delay 900, and with delay 901. -/
def attachNear : List Byte := [0#8, 0#8, 7#8, 0b00010010#8, 0b00000011#8, 0b10000100#8]
def attachFar : List Byte := [0#8, 0#8, 7#8, 0b00010010#8, 0b00000011#8, 0b10000101#8]

theorem witness_AttachTaken :
    (let s := busy.hearing .attach 1 attachFar
     s.hasHead .attach 1 attachFar [] ∧ (readAttach attachFar).map (·.delay) = some 901 ∧ s.profile.taLimit < 901) ∧
    (let s := (busy.hearing .attach 1 attachNear).setTags (Vector.ofFn fun g => ⟨none, if g.val < 192 then 1 else 0⟩)
     s.hasHead .attach 1 attachNear [] ∧ (readAttach attachNear).map (·.delay) = some 900 ∧ 900 ≤ s.profile.taLimit ∧
     (∀ i, (s.ctx i).inUse = true → (s.ctx i).identity ≠ some 7) ∧ 192 ≤ s.tagsTaken) ∧
    (let s := (busy.hearing .attach 1 attachNear).setContexts (Vector.replicate 96 { user with identity := none })
     s.hasHead .attach 1 attachNear [] ∧ ∀ i, (s.ctx i).inUse = true) ∧
    (let s := (((busy.hearing .attach 1 attachNear).setTags
       (Vector.ofFn fun g => ⟨none, if g.val < 191 then 1 else 0⟩)).putCtx 0 { user with identity := some 8 }).setTagPtr 190
     s.hasHead .attach 1 attachNear [] ∧ s.tagsTaken < 192 ∧ (s.ctx 1).inUse = false ∧
     (∀ j < (1 : Slot), (s.ctx j).inUse = true) ∧ (s.tagEntry 191).unassigned = true ∧
     ∀ h : Tag, (h - s.tagPtr).val < ((191 : Tag) - s.tagPtr).val → (s.tagEntry h).unassigned = false) ∧
    (let s := (busy.hearing .attach 1 attachNear).serving 95 255 { user with identity := some 7 }
     s.hasHead .attach 1 attachNear [] ∧ (s.ctx 95).inUse = true ∧ (s.ctx 95).identity = some 7 ∧
     (∀ j < (95 : Slot), (s.ctx j).inUse = true → (s.ctx j).identity ≠ some 7) ∧ (s.ctx 95).tag = some 255) := by
  unfold State.hasHead; decide +kernel

/-- Far TA threshold 600, far q threshold 3: each clause at its boundary (03, table of R56). -/
theorem witness_ReachHysteresis :
    let near := fun (ta : Nat) (q : Quality) => { user with ta := ta, qWide := q }
    let p := busy.profile
    (p.farTa ≤ (near 600 15).ta ∧ (near 0 3).qWide.val ≤ p.farQ) ∧
    ((near 599 4).ta < p.farTa ∧ p.farQ < (near 599 4).qWide.val) ∧
    ((near 583 5).ta + 16 < p.farTa ∧ p.farQ + 1 < (near 583 5).qWide.val) ∧
    (p.farTa ≤ (near 584 5).ta + 16 ∧ (near 583 4).qWide.val ≤ p.farQ + 1) ∧
    user.reach = .near ∧ { user with reach := .far }.reach = .far := by decide +kernel

/-- A QUALITY for tag 9 with the given last byte, heard with a context in slot 9. -/
def quality9 (e : Byte) : List Byte := [9#8, 0#8, 0#8, 0#8, e]
def hearing9 (c : Context) (e : Byte) : State := (busy.serving 9 9 c).hearing .quality 1 (quality9 e)

theorem witness_QualityApplied :
    let now := fun (c : Context) (e : Byte) (v : Int) =>
      (hearing9 c e).hasHead .quality 1 (quality9 e) [] ∧
      (readQuality (quality9 e)).map (fun r => (r.tag, r.error)) = some (9, v) ∧ (hearing9 c e).slotOf 9 = some 9
    (now { user with ta := 893 } 7#8 7 ∧ (7 : Int).natAbs < 8 ∧ 893 + 7 ≤ 900) ∧
    (now { user with ta := 894 } 7#8 7 ∧ 900 < 894 + 7) ∧ (now user 0x78#8 (-8) ∧ 8 ≤ (-8 : Int).natAbs ∧ user.life = .active) ∧
    now { user with life := .dormant } 0x78#8 (-8) ∧ now { user with life := .admitting } 0x78#8 (-8) ∧
    busy.profile.drift = 8 ∧ busy.profile.taLimit = 900 := by
  unfold State.hasHead; decide +kernel

theorem witness_RangeAndBufferApplied :
    (let p := [9#8, 0x03#8, 0x85#8]
     ((busy.serving 9 9 user).hearing .range 1 p).hasHead .range 1 p [] ∧ readRange p = some ⟨9, 901⟩ ∧
     (busy.serving 9 9 user).slotOf 9 = some 9 ∧ busy.profile.taLimit < 901) ∧
    (let p := [9#8, 0x03#8, 0x84#8]
     ((busy.serving 9 9 user).hearing .range 1 p).hasHead .range 1 p [] ∧ readRange p = some ⟨9, 900⟩ ∧
     900 ≤ busy.profile.taLimit ∧ user.life ≠ .recovery ∧ { user with life := .recovery }.life = .recovery) ∧
    (let p := [9#8, 0x80#8, 0xFF#8, 0xFF#8, 0xFF#8]
     ((busy.serving 9 9 user).hearing .buffer 1 p).hasHead .buffer 1 p [] ∧ readBuffer p = some ⟨9, .ul, 16777215⟩ ∧
     (busy.serving 9 9 user).slotOf 9 = some 9) := by
  unfold State.hasHead; decide +kernel

/-- USAGE of 3002 DL with one entry, and of 3003 DL, which is not open. -/
theorem witness_UsageApplied :
    let p := fun (n last : Byte) => [0xBB#8, n, last, 60#8, 0x1F#8, 0x40#8]
    let s := fun (n last : Byte) => granted.hearing .usage 1 (p n last)
    (∀ n ∈ [0xA0#8, 0xB0#8, 0xA4#8], (s n 1#8).hasHead .usage 1 (p n 1#8) []) ∧
    (readUsage (p 0xB0#8 1#8)).map (fun u => (u.interval, u.dir)) = some (3003, .dl) ∧ granted.isOpen 3003 .dl = false ∧
    (readUsage (p 0xA0#8 1#8)).map (fun u => (u.interval, u.dir, u.last)) = some (3002, .dl, false) ∧
    (readUsage (p 0xA4#8 1#8)).map (fun u => (u.interval, u.dir, u.last)) = some (3002, .dl, true) ∧
    granted.isOpen 3002 .dl = true := by
  unfold State.hasHead; decide +kernel

/-! ### Witnesses: band claims -/

theorem witness_BandTimersEnd :
    let s := fun (d : Due) (c : OwnClaim) => (busy.putOwn 5 c).setAgenda [d]
    ((s (.bandHeld 5) { announcedAt 90 with phase := some 1 }).dueNow (.bandHeld 5) ∧ (announcedAt 90).state = .announced) ∧
    ((s (.settleEnd 5) { OwnClaim.reset with state := .releasing }).dueNow (.settleEnd 5) ∧
      { OwnClaim.reset with state := .releasing }.state = .releasing) ∧
    (s (.lastAssertExpiry 5) (heldSince 90)).dueNow (.lastAssertExpiry 5) ∧
    (s (.neighbourEntryExpiry 5) OwnClaim.reset).dueNow (.neighbourEntryExpiry 5) := by
  unfold State.dueNow; decide +kernel

/-- Ages 1024 and 1025 of the stored interval. -/
theorem witness_RefreshClaimQueued :
    let s := fun (a : Interval) (o : Option Interval) =>
      ((busyAt 1100).putOwn 5 { heldSince a with outstanding := o }).setAgenda [.refreshClaim 5]
    let first := fun (a : Interval) => (s a none).dueNow (.refreshClaim 5) ∧ ((s a none).own 5).state = .held ∧
      ((s a none).own 5).announced = some a ∧ ((s a none).own 5).outstanding = none
    first 76 ∧ first 75 ∧
    ((s 76 (some 1099)).dueNow (.refreshClaim 5) ∧ ((s 76 (some 1099)).own 5).outstanding ≠ none) ∧
    age 1100 76 = 1024 ∧ age 1100 75 = 1025 := by
  unfold State.dueNow; decide +kernel

/-- A CLAIM queued at 98 stands at interval 100 in the queue, or on the wire. -/
theorem witness_ClaimTransmitLimitTaken :
    let s := fun (c : OwnClaim) (x : TxTelegram) =>
      ((busy.putOwn 5 { c with outstanding := some 98 }).setTxQueue [x]).setAgenda [.claimTransmitLimit 5]
    let q := waiting .claim (.claim 5)
    let w := sending .claim (.claim 5)
    (∀ c ∈ [announcedAt 98, heldSince 90], ∀ x ∈ [q, w], (s c x).dueNow (.claimTransmitLimit 5) ∧
      ((s c x).own 5).outstanding = some 98 ∧ 2 ≤ age (s c x).interval 98) ∧
    (q ∈ (s (announcedAt 98) q).txQueue ∧ q.owner = .claim 5 ∧ q.onWire = false ∧
      ((s (announcedAt 98) q).own 5).state = .announced ∧ ((s (announcedAt 98) q).own 5).phase = none) ∧
    (heldSince 90).state ≠ .announced ∧ (∀ x ∈ (s (heldSince 90) w).txQueue, x.owner = .claim 5 → x.onWire = true) := by
  unfold State.dueNow; decide +kernel

theorem witness_IdleReleaseTaken :
    let s := fun l => (busy.putOwn 5 { heldSince 90 with idle := 127 }).setAgenda l
    let more := s [.idleRelease 5, .idleRelease 0, .newClaim]
    let final := s [.idleRelease 5, .newClaim]
    (Due.idleRelease 5 ∈ more.agenda ∧ (more.own 5).state = .held ∧ (more.taking (.idleRelease 5)).agenda ≠ [.newClaim]) ∧
    (Due.idleRelease 5 ∈ final.agenda ∧ (final.own 5).state = .held ∧
      (final.taking (.idleRelease 5)).agenda = [.newClaim]) := by decide +kernel

/-- Band 5 is the only one claimable; without demand nothing is claimed. -/
theorem witness_ClaimDecision :
    let s := ((busy.setFarDemand 8).setClaims (Vector.replicate 6 { OwnClaim.reset with backoff := 1 })).putOwn 5
      OwnClaim.reset
    busy.farDemand ≠ 8 ∧ s.farDemand = 8 ∧ s.spacing = 0 ∧ s.claimedBands < s.profile.quota ∧ s.station = .running ∧
    s.resetSeq = none ∧ s.claimable 5 = true ∧ (∀ b < (5 : Band), s.claimable b = false) := by decide +kernel

/-- Each case of a heard CLAIM of interval 100 on an own band: equal intervals, the lower station wins. -/
theorem witness_HeardClaimOnOwnBand :
    let p := claimPayload 5 100
    let s := fun (c : OwnClaim) (source : Station) => (busy.putOwn 5 c).hearing .claim source p
    (∀ source ∈ [(2 : Station), 9], ∀ c ∈ [announcedAt 100, heldSince 100, { heldSince 100 with lastAssert := some 99 },
        { heldSince 100 with outstanding := some 99 }],
      (s c source).hasHead .claim source p [] ∧ source ≠ (s c source).ownStation ∧
        ((s c source).own 5).announced = some 100) ∧
    winsClaim 100 100 5 9 = true ∧ winsClaim 100 100 5 2 = false := by
  unfold State.hasHead; decide +kernel

theorem witness_HeardClaimsAndReleases :
    let p := claimPayload 5 100
    let r := bandReleasePayload 5
    let s := fun e => busy.putNeighbour 5 e
    (((s none).hearing .claim 9 p).hasHead .claim 9 p [] ∧ (9 : Station) ≠ busy.ownStation ∧
      (busy.own 5).claimed = false ∧ (s none).neighbour 5 = none) ∧
    (((s (some ⟨9, 5, 191⟩)).hearing .claim 9 p).hasHead .claim 9 p [] ∧ (s (some ⟨9, 5, 191⟩)).neighbour 5 =
      some ⟨9, 5, 191⟩) ∧
    (((s (some ⟨9, 101, 0⟩)).hearing .claim 2 p).hasHead .claim 2 p [] ∧ winsClaim 100 101 2 9 = true) ∧
    (((s (some ⟨2, 100, 0⟩)).hearing .claim 9 p).hasHead .claim 9 p [] ∧ winsClaim 100 100 9 2 = false) ∧
    (((s (some ⟨9, 5, 0⟩)).hearing .bandRelease 9 r).hasHead .bandRelease 9 r [] ∧
      ((s (some ⟨9, 5, 0⟩)).hearing .bandRelease 2 r).hasHead .bandRelease 2 r []) ∧
    (busy.hearing .claim 5 p).hasHead .claim busy.ownStation p [] ∧
    (busy.hearing .bandRelease 5 r).hasHead .bandRelease busy.ownStation r [] ∧
    (∀ n ∈ [6, 7], (busy.hearing .claim 9 (bytesOf 2 (n * 8192 + 100))).hasHead .claim 9 (bytesOf 2 (n * 8192 + 100)) [] ∧
      (busy.hearing .bandRelease 9 (bytesOf 1 (n * 32))).hasHead .bandRelease 9 (bytesOf 1 (n * 32)) []) := by
  unfold State.hasHead; decide +kernel

theorem witness_HeardAdmit :
    let p := admitPayload 7 9 0
    let s := fun (source : Station) => (busy.serving 95 95 user).hearing .admission source p
    ((s 5).hasHead .admission 5 p [] ∧ (5 : Station) = (s 5).ownStation) ∧
    ((busy.hearing .admission 9 p).hasHead .admission 9 p [] ∧
      ∀ i, (busy.ctx i).inUse = true → (busy.ctx i).identity ≠ some 7) ∧
    (∀ source ∈ [(2 : Station), 9], (s source).hasHead .admission source p [] ∧ source ≠ (s source).ownStation ∧
      ((s source).ctx 95).inUse = true ∧ ((s source).ctx 95).identity = some 7 ∧
      ∀ j < (95 : Slot), ((s source).ctx j).inUse = true → ((s source).ctx j).identity ≠ some 7) ∧
    winsHandover user.attachQuality 9 user.admitted 0 5 9 = true ∧
    winsHandover user.attachQuality 9 user.admitted 0 5 2 = false := by
  unfold State.hasHead; decide +kernel

/-- Distances 2047 and 2048 of two intervals. -/
theorem witness_ContestVerdicts : (0 : Interval) ≠ 2047 ∧ ((2047 : Interval).val + 4096 - 0) % 4096 ≠ 2048 ∧
    earlier 0 2047 = true ∧ earlier 0 2048 = false ∧ earlier 2048 0 = false ∧ (4 : Station) ≠ 7 ∧ (8 : Quality) < 9 := by
  decide +kernel

/-! ### Witnesses: management -/

theorem witness_QueriesAnswered :
    let p := [0#8, BitVec.ofNat 8 (255 : Tag).val]
    (((busy.serving 95 255 user).hearing .query 3 p).hasHead .query 3 p [] ∧
      (busy.serving 95 255 user).slotOf 255 = some 95) ∧
    ((busy.hearing .query 3 p).hasHead .query 3 p [] ∧ busy.slotOf 255 = none) ∧
    (busy.hearing .query 3 [1#8, 7#8]).hasHead .query 3 [1#8, 7#8] [] ∧ busy.rested ∧
    (busy.profile.inRange ∧ user.inRange busy.profile ∧ (∀ d, user.pending.at d < 2 ^ 24) ∧ user.identity = some 7 ∧
      user.q = none ∧ (busy.serving 9 9 user |>.ctx 9).inRange busy.profile) ∧
    (let s := (busy.putOwn 5 (heldSince 90)).putNeighbour 4 (some ⟨9, 4095, 191⟩)
     RangeLaw s ∧ (s.own 5).announced = some 90 ∧ s.neighbour 5 = none ∧ s.neighbour 4 = some ⟨9, 4095, 191⟩) := by
  refine ⟨by unfold State.hasHead; decide +kernel, by unfold State.hasHead; decide +kernel,
    by unfold State.hasHead; decide +kernel, rested_of (by decide +kernel),
    ⟨by unfold Profile.inRange; decide +kernel, inRange_of_ranged (by decide +kernel), both (by decide) (by decide), rfl, rfl,
      inRange_of_ranged (by decide +kernel)⟩, ?_⟩
  exact ⟨range_of (by unfold Profile.inRange; decide +kernel) (by decide +kernel) (by decide +kernel), by decide +kernel⟩

theorem witness_RetrainAndClear :
    let p := bytesOf 1 (255 : Tag).val
    (∀ l ∈ [Life.active, .dormant, .admitting, .recovery],
      ((busy.serving 95 255 { user with life := l }).hearing .retrain 3 p).hasHead .retrain 3 p [] ∧
      (busy.serving 95 255 { user with life := l }).slotOf 255 = some 95) ∧
    ((busy.hearing .retrain 3 p).hasHead .retrain 3 p [] ∧ busy.slotOf 255 = none) ∧
    (busy.hearing .clear 3 (bytesOf 2 (0x8001#16).toNat)).hasHead .clear 3 (bytesOf 2 (0x8001#16).toNat) [] := by
  unfold State.hasHead; decide +kernel

/-- TAG_UNKNOWN (15) set, clear and not enabled, clear and enabled with room and without. -/
theorem witness_RaiseSetsFlagAndAlerts :
    let on := busy.setProfile { busy.profile with alertMask := 0x8000#16 }
    let full := on.setTxQueue (List.replicate 24 (waiting .alert .unreported))
    busy.acting = true ∧ (busy.setFlags 0x8000#16).flags.getLsbD Condition.tagUnknown.num = true ∧
    (busy.flags.getLsbD Condition.tagUnknown.num = false ∧
      busy.profile.alertMask.getLsbD Condition.tagUnknown.num = false) ∧
    (on.acting = true ∧ on.flags.getLsbD Condition.tagUnknown.num = false ∧
      on.profile.alertMask.getLsbD Condition.tagUnknown.num = true ∧ on.txQueue.length < 24) ∧
    (full.acting = true ∧ full.flags.getLsbD Condition.tagUnknown.num = false ∧
      full.profile.alertMask.getLsbD Condition.tagUnknown.num = true ∧ 24 ≤ full.txQueue.length) := by decide +kernel

/-! ### Witnesses: the placement -/

theorem witness_PlacementBegins :
    let begun := after .placementBegin worked
    (begun.agenda = [] ∧ begun.flight ≠ none) ∧ (busy.agenda = [] ∧ busy.placementsDue = []) ∧
    (worked.agenda = [] ∧ worked.flight = none ∧ worked.placementsDue = 2050 :: []) := by decide +kernel

/-- 07, A worked placement with two more contexts: more in the first tier than sounding units, so one is left over; and
four RECOVERY contexts. -/
theorem witness_EntryChoice :
    let s := ((busy.serving 0 0 { user with age := 4095 }).serving 1 1 { user with age := 4095 }).serving 2 2
      { user with age := 4095 }
    s.soundChoice.chosen = [0, 1] ∧ (2 : Slot) ∉ s.soundChoice.chosen ∧ (s.ctx 2).firstTier = true ∧
    (busy.soundChoice.chosen.length < busy.profile.soundingUnits) := by decide +kernel

/-- R65, R66: two contexts of the second tier, the older first, though the refresh pointer stands between them; nobody is
chosen from the third tier, so the pointer stays. -/
theorem test_second_tier_before_third :
    let s := ((busy.serving 5 50 { user with age := 150 }).serving 30 51 { user with age := 140 }).setRefreshPtr 10
    s.soundChoice.chosen = [5, 30] ∧ s.soundChoice.third = [] ∧ (s.profile.soundingUnits, s.profile.horizon) = (2, 100) := by
  decide +kernel

/-- A flight for 2050 with one candidate, at a stage. -/
def candidate : Candidate where
  slot := 3
  tag := 41
  reach := .near
  cls := 0
  q := #v[9, 9, 9, 9, 9, 9]
  average := 16384
  backlog := 600
  stale := false
def flying (c : Candidate) (stage : Stage) : Flight where
  target := 2050
  candidates := ⟨[c], []⟩
  bands := Vector.replicate 6 ⟨.free, false⟩
  grids := freshGrids 2
  ranges := []
  sounds := []
  stage := stage
  grants := []

/-- One ranked candidate that finds no block is passed over; the next finds four units. The record list with room for one,
and full; the terminal there, and released. From the stage rank, and from the downlink walk. -/
theorem witness_DataGrantMade :
    let none' : Ranked := { cand := candidate, best := 0, bands := [] }
    let r : Ranked := { cand := candidate, best := 9984, bands := [(0, 9)] }
    let f := flying candidate (.serve .dl ([none'] ++ r :: []))
    let s := (busy.setFlight (some f)).setRecords (List.replicate 383 record)
    let full := (busy.setFlight (some f)).setRecords (List.replicate 384 record)
    let first := flying candidate (.rank .dl)
    let u := busy.setFlight (some first)
    let best := (first.ranked busy.profile .dl).take 1
    let turned : Flight := { flying candidate (.walk .dl [2]) with candidates := ⟨[], [candidate]⟩ }
    (s.agenda = [] ∧ s.flight = some f ∧ f.stage = .serve .dl ([none'] ++ r :: []) ∧ [none'].length ≤ 96 ∧
      layRanked (f.grids.at .dl) .dl none' = none ∧
      layRanked (f.grids.at .dl) .dl r = some { band := 0, quality := 9, base := 0, size := 4, count := 4 } ∧
      s.records.length < 384 ∧ (s.serving 3 41 user).slotOf 41 = some 3 ∧ s.slotOf 41 ≠ some 3) ∧
    (full.agenda = [] ∧ full.flight = some f ∧ 384 ≤ full.records.length) ∧
    (u.agenda = [] ∧ u.flight = some first ∧ first.stage = .rank .dl ∧ first.ranked busy.profile .dl = [] ++ best ∧
      best.map (layRanked (first.grids.at .dl) .dl) = [some { band := 0, quality := 9, base := 0, size := 4, count := 4 }] ∧
      first.metricConditions { busy.profile with rounding := .down } .dl = []) ∧
    (turned.stage = .walk .dl [2] ∧ turned.candidates.dl.find? (fun c => decide (c.slot = 2) && c.stale) = none ∧
      (turned.ranked busy.profile .ul).map (layRanked turned.grids.ul .ul) =
        [some { band := 0, quality := 9, base := 0, size := 4, count := 4 }]) := by decide +kernel

/-- Slot 2 holds no stale candidate; slot 3 does, and unit 0 is free. The terminal there, and released. With one ranked
candidate left that finds no block, the walk begins at the pointer 2. -/
theorem witness_FallbackGrantMade :
    let c := { candidate with stale := true }
    let f := flying c (.walk .dl ([2] ++ 3 :: []))
    let s := (busy.setFlight (some f)).setRecords (List.replicate 383 record)
    let full := (busy.setFlight (some f)).setRecords (List.replicate 384 record)
    let none' : Ranked := { cand := candidate, best := 0, bands := [] }
    let u := (busy.setFlight (some (flying c (.serve .dl [none'])))).setFallbackPtr ⟨2, 0⟩
    (s.agenda = [] ∧ s.flight = some f ∧ f.stage = .walk .dl ([2] ++ 3 :: []) ∧
      ((f.candidates.at .dl).find? fun c => decide (c.slot = 2) && c.stale) = none ∧
      ((f.candidates.at .dl).find? fun c => decide (c.slot = 3) && c.stale) = some c ∧
      layFallback (f.grids.at .dl) f.bands c = some { band := 0, quality := 1, base := 0, size := 1, count := 1 } ∧
      s.records.length < 384 ∧ (s.serving 3 41 user).slotOf 41 = some 3 ∧ s.slotOf 41 ≠ some 3) ∧
    (full.agenda = [] ∧ full.flight = some f ∧ 384 ≤ full.records.length) ∧
    (u.agenda = [] ∧ (u.flight.map (·.stage)) = some (.serve .dl [none']) ∧ layRanked (f.grids.at .dl) .dl none' = none ∧
      slotsFrom (u.fallbackPtr.at .dl) = [2] ++ 3 :: (slotsFrom (u.fallbackPtr.at .dl)).drop 2) := by decide +kernel

theorem fresh_sounding :
    ∀ j : Subchannel, soundingUnit busy.profile.soundingUnits j.val = true → (freshGrids 2).ul[j] = .reserved := by
  decide +kernel

/-- A flight without grants keeps the grid laws, if its stage does. -/
theorem flying_grid (c : Candidate) (stage : Stage) (hb : 0 < c.backlog) (hs : (flying c stage).staged) :
    GridLaw (busy.setFlight (some (flying c stage))) := by
  intro f hf
  obtain rfl : flying c stage = f := Option.some.inj hf
  refine ⟨by simp [flying], by simp [flying], fresh_sounding, by simp [flying], by simp [flying], ?_, hs⟩
  intro d; cases d <;> simp [flying, Both.at, hb]

/-- Every stage that may place nobody, each in a state that keeps the grid laws. -/
theorem witness_StagesPass :
    let none' : Ranked := { cand := candidate, best := 0, bands := [] }
    (busy.agenda = [] ∧ busy.flight = none) ∧
    GridLaw (busy.setFlight (some (flying candidate (.rank .dl)))) ∧
    (GridLaw (busy.setFlight (some (flying candidate (.serve .dl [none'])))) ∧ layRanked (freshGrids 2).dl .dl none' = none) ∧
    (GridLaw (busy.setFlight (some (flying candidate (.walk .dl [2])))) ∧
      (flying candidate (.walk .dl [2])).noFallback .dl [2]) ∧
    (GridLaw (busy.setFlight (some (flying candidate (.walk .ul [2])))) ∧
      (flying candidate (.walk .ul [2])).noFallback .ul [2]) ∧
    GridLaw (busy.setFlight (some (flying candidate .ended))) := by
  refine ⟨by decide +kernel, flying_grid _ _ (by decide) ?_, ⟨flying_grid _ _ (by decide) ?_, by decide +kernel⟩,
    ⟨flying_grid _ _ (by decide) ?_, ?_⟩, ⟨flying_grid _ _ (by decide) ?_, ?_⟩, flying_grid _ _ (by decide) ?_⟩
  all_goals simp [Flight.staged, Flight.noFallback, Flight.fresh, Flight.grantedTo, flying, candidate, Both.at]

theorem witness_RankingOrder :
    let f := flying candidate (.rank .dl)
    ((f.candidates.at .dl).Pairwise fun x y => x.slot < y.slot) ∧ (f.ranked busy.profile .dl).length = 1 ∧
    (0, 9) ∈ allowedBands busy.profile f.bands candidate := by
  decide +kernel

/-- Band 5 of the uplink with two sounding units: 8 units needed, a block of 4 found; and no unit free at all. 25 bits at
E 12 need 3 units, 100 bits the cap of 8, of FAR in UL 4. A candidate that finds nothing on band 5 is laid on band 4. -/
theorem witness_BlockSearchAndGeometry : (1 : Nat) ≤ 8 ∧ searchBlock (freshGrids 2).ul 5 8 = some (4, 40) ∧
    searchBlock (Vector.replicate 48 .occupied) 5 8 = none ∧
    ((8 : Nat) ∈ [1, 2, 4, 8] ∧ 40 % 8 = 0 ∧ 8 * (5 : Band).val ≤ 40 ∧ 40 + 8 ≤ 8 * (5 : Band).val + 8 ∧ 7 < 8) ∧
    (0 < efficiency 1 ∧ unitsNeeded .dl .far 25 (efficiency 1) = 3 ∧ unitsNeeded .ul .near 100 (efficiency 1) = 8 ∧
      unitsNeeded .ul .far 100 (efficiency 1) = 4) ∧
    (let g : Grid := Vector.ofFn fun j => if 40 ≤ j.val then .occupied else .free
     let r : Ranked := { cand := candidate, best := 0, bands := [(5, 9)] ++ (4, 1) :: [] }
     let u := unitsNeeded .ul candidate.reach candidate.backlog (efficiency 1)
     searchBlock g 5 (unitsNeeded .ul candidate.reach candidate.backlog (efficiency 9)) = none ∧
       searchBlock g 4 u = some (8, 32) ∧ r.bands = [(5, 9)] ++ (4, 1) :: []) := by
  decide +kernel

theorem witness_MetricAndAverage : 0 < efficiency 1 ∧ (3 : Nat) ≤ 3 ∧ (10 : Nat) ≤ 10 ∧ 16777215 ≤ metricMax ∧
    0 ≤ (0 : Int) ∧ (2 * ((-10 : Int) - roundQuotient .nearest (-10) 4 * 4)).natAbs = 4 := by decide +kernel

/-! ### Witnesses: grant records -/

theorem granted_backlog : BacklogLaw granted := backlog_of (by decide +kernel)

theorem witness_RollbackRestores : BacklogLaw granted := granted_backlog

/-- Not due; due with every telegram sent; due with one queued; waiting for the placement in flight. -/
theorem witness_GrantListDeadlineTaken :
    let due := granted.setDeadlinesDue [3002]
    let late := due.setTxQueue [waiting .grantList (.grantList 3002 0)]
    let awaiting := (busy.setFlight (some { flying candidate .ended with target := 2050 })).setDeadlinesDue [2050]
    (granted.agenda = [] ∧ (3002 : Interval) ∉ granted.deadlinesDue) ∧ awaiting.awaited 2050 = true ∧
    (due.agenda = [] ∧ 3002 ∈ due.deadlinesDue ∧ due.awaited 3002 = false ∧ due.lateLists 3002 = []) ∧
    (late.agenda = [] ∧ 3002 ∈ late.deadlinesDue ∧ late.awaited 3002 = false ∧ late.lateLists 3002 ≠ []) := by
  decide +kernel

theorem witness_CloseByTimeoutTaken :
    let due := granted.setClosesDue [(3002, .dl), (3002, .ul), (3001, .dl)]
    due.agenda = [] ∧ (3000, Direction.dl) ∉ due.closesDue ∧
    ((3001, Direction.dl) ∈ due.closesDue ∧ due.isOpen 3001 .dl = false) ∧
    ((3002, Direction.ul) ∈ due.closesDue ∧ due.isOpen 3002 .ul = true ∧
      ∀ r ∈ due.records, r.interval = 3002 → r.dir = .ul → r.orphan = false → r.delivered ≠ none) ∧
    ((3002, Direction.dl) ∈ due.closesDue ∧ due.isOpen 3002 .dl = true ∧
      ∃ r ∈ due.records, r.interval = 3002 ∧ r.dir = .dl ∧ r.orphan = false ∧ r.delivered = none) := by decide +kernel

/-- The other direction open, and not; one record of an ACTIVE context. -/
theorem witness_CloseSettles : BacklogLaw granted ∧ (∃ o ∈ granted.openIntervals, o.interval = 3002 ∧ o.dir ≠ .dl) ∧
    (∀ o ∈ ([⟨3002, .dl, none⟩] : List OpenInterval), o.interval = 3002 → o.dir = .dl) ∧
    (granted.ctx 4).life = .active ∧ (granted.records.filter fun r =>
      (decide (r.interval = 3002) && decide (r.dir = .dl)) && decide (r.slot = 4) && !r.orphan).length ≤ 1 ∧
    (granted.ctx 0).life ≠ .active := by
  refine ⟨granted_backlog, ?_⟩
  decide +kernel

/-! ### Witnesses: the bus interface -/

theorem witness_FrameReceivedFiltered :
    let full := busy.setRxBuffer (List.replicate 8 { kind := .detach, source := 1, payload := [0#8] })
    (busy.agenda = [] ∧ busy.acting = true ∧ busy.wire = none ∧ (31 : Nat) < 32 ∧ (List.replicate 64 (0#8)).length ≤ 64) ∧
    (Kind.ofCode 13 = some .detach ∧ (5 : Station) = busy.ownStation ∧ (1 : Station) ≠ 15 ∧
      busy.roleHolds .detach 1 = true ∧ busy.rxBuffer.length < 8 ∧ 8 ≤ full.rxBuffer.length ∧
      full.roleHolds .detach 1 = true ∧ full.wire = none) ∧
    Kind.ofCode 31 = none ∧ busy.roleHolds .detach 2 = false ∧ readFrame [] = none ∧
    (busy.setTxQueue [sending .status .unreported]).wire ≠ none := by decide +kernel

theorem witness_FrameTransmitStarts :
    let x := waiting .claim (.claim 2)
    let tired := { waiting .claim .unreported with attempts := 2 }
    let s := busy.setTxQueue ([waiting .status .unreported] ++ x :: [waiting .claim (.claim 3)])
    let u := busy.setTxQueue ([] ++ tired :: [])
    (busy.agenda = [] ∧ busy.acting = true ∧ busy.txQueue = []) ∧ (busy.setTxQueue [sending .status .unreported]).wire ≠ none ∧
    (s.acting = true ∧ s.wire = none ∧ (∀ y ∈ [waiting .status .unreported], x.kind.priority < y.kind.priority) ∧
      (∀ y ∈ [waiting .claim (.claim 3)], x.kind.priority ≤ y.kind.priority) ∧ x.removal = false ∧ x.attempts < 2) ∧
    (u.wire = none ∧ tired.removal = false ∧ 2 ≤ tired.attempts ∧ tired.owner = .unreported ∧ u.resetSeq = none) ∧
    BitVec.ofNat 9 (Kind.claim.code * 16 + 5) = 0b000010101#9 ∧ (0b000010010#9 : BitVec 9) < 0b000010101#9 ∧
    (0b000010101#9 : BitVec 9) < 0b000011101#9 := by decide +kernel

/-- One frame on the wire of each owner, at the state of its clause. -/
theorem witness_FrameSentReported :
    let claims := busy.setTxQueue [sending .claim (.claim 5)]
    let first := claims.putOwn 5 { announcedAt 100 with outstanding := some 100 }
    let again := claims.putOwn 5 { heldSince 90 with outstanding := some 100 }
    let list := granted.setTxQueue [sending .grantList (.grantList 3002 0)]
    let release := (busy.setTxQueue [sending .bandRelease (.bandRelease 5 true)]).setResetSeq (some 0)
    (busy.agenda = [] ∧ busy.wire = none) ∧
    (first.wire = some (sending .claim (.claim 5)) ∧ first.resetSeq = none ∧ (first.own 5).outstanding = some 100 ∧
      (first.own 5).state = .announced ∧ (first.own 5).phase = none) ∧
    (again.wire = some (sending .claim (.claim 5)) ∧ (again.own 5).state ≠ .announced) ∧
    (claims.wire = some (sending .claim (.claim 5)) ∧ (claims.own 5).outstanding = none) ∧
    (list.wire = some (sending .grantList (.grantList 3002 0)) ∧ list.listState 3002 0 = some .queued ∧
      list.listState 3002 1 ≠ some .queued) ∧
    (release.wire = some (sending .bandRelease (.bandRelease 5 true)) ∧ release.resetSeq ≠ none ∧
      ∀ y ∈ (release.txQueue.filter fun y => !y.onWire), y.ofSequence = false) := by decide +kernel

theorem witness_TransmitErrorTaken :
    let x := sending .tagAssign .unreported
    let s := busy.setTxQueue ([waiting .status .unreported] ++ { x with attempts := 1 } :: [])
    let claim := (busy.putOwn 5 { announcedAt 100 with outstanding := some 100 }).setTxQueue
      [{ sending .claim (.claim 5) with attempts := 2 }]
    let list := granted.setTxQueue [{ sending .grantList (.grantList 3002 0) with removal := true }]
    let release := (busy.setTxQueue [{ sending .bandRelease (.bandRelease 5 true) with removal := true }]).setResetSeq (some 1)
    (busy.agenda = [] ∧ busy.wire = none) ∧
    (s.wire = some { x with attempts := 1 } ∧ (∀ y ∈ [waiting .status .unreported], y.onWire = false) ∧
      x.removal = false ∧ 1 < 2 ∧ s.resetSeq = none ∧ x.owner = .unreported) ∧
    (claim.wire = some { sending .claim (.claim 5) with attempts := 2 } ∧ claim.resetSeq = none ∧
      (claim.own 5).outstanding = some 100) ∧
    (list.wire = some { sending .grantList (.grantList 3002 0) with removal := true } ∧
      list.listState 3002 0 = some .queued ∧ ∀ e ∈ list.register, e.interval = 3002 → e.late = false) ∧
    (release.wire = some { sending .bandRelease (.bandRelease 5 true) with removal := true } ∧ release.resetSeq ≠ none ∧
      ∀ y ∈ (release.txQueue.filter fun y => !y.onWire), y.ofSequence = false) ∧
    (let alone := busy.setTxQueue [{ sending .bandRelease (.bandRelease 5 false) with attempts := 2 }]
     alone.wire = some { sending .bandRelease (.bandRelease 5 false) with attempts := 2 } ∧ alone.resetSeq = none) ∧
    (let spare := { sending .claim (.claim 5) with removal := true }
     let unclaimed := busy.setTxQueue [spare]
     unclaimed.wire = some spare ∧ (unclaimed.own 5).outstanding = none) ∧
    (let last := { sending .grantList (.grantList 3002 0) with attempts := 2 }
     let spent := { sending .grantList (.grantList 3002 1) with attempts := 2 }
     (granted.setTxQueue [last]).wire = some last ∧ (granted.setTxQueue [last]).listState 3002 0 = some .queued ∧
       (granted.setTxQueue [spent]).wire = some spent ∧ (granted.setTxQueue [spent]).listState 3002 1 ≠ some .queued) ∧
    (let more := (busy.setTxQueue [{ sending .bandRelease (.bandRelease 5 true) with removal := true },
      waiting .bandRelease (.bandRelease 4 true)]).setResetSeq (some 0)
     ∃ y ∈ (more.txQueue.filter fun y => !y.onWire), y.ofSequence = true) := by
  decide +kernel

/-- 09, the table of R158, rows 2 and 3: 24 telegrams, with a victim and without. -/
theorem witness_OfferAndEviction :
    let room := busy.setTxQueue (List.replicate 23 (waiting .claim (.claim 0)))
    let refuse := busy.setTxQueue (List.replicate 24 (waiting .grantList .disowned))
    let before := List.replicate 23 (waiting .grantList .disowned)
    let v := waiting .tagAssign .unreported
    let evict := busy.setTxQueue (before ++ v :: [])
    let x := waiting .grantList .disowned
    room.acting = true ∧ room.txQueue.length < 24 ∧
    (24 ≤ refuse.txQueue.length ∧ ∀ y ∈ refuse.txQueue, y.onWire = true ∨ y.kind.priority ≤ v.kind.priority) ∧
    (24 ≤ evict.txQueue.length ∧ evict.txQueue = before ++ v :: [] ∧ v.onWire = false ∧
      x.kind.priority < v.kind.priority ∧ ∀ y ∈ before, y.onWire = true ∨ y.kind.priority ≤ v.kind.priority) := by
  decide +kernel

theorem witness_FrameRoundTrip : (31 : Nat) < 32 ∧ (List.replicate 64 (0xFF#8)).length ≤ 64 ∧
    let f : Frame := { code := 31, source := 15, dest := 0, payload := [0xA5#8] }
    readFrame (f.cells ++ [true]) = some f := by decide +kernel

theorem witness_PayloadLayouts : (2047 : Nat) < 2048 ∧ (2 ^ 24 - 1 : Nat) < 2 ^ 24 ∧
    (List.replicate 20 ((255 : Tag), (4095 : Fin 4096), (15 : Fin 16))).length ≤ 20 ∧ 2 ≤ (2#8).toNat ∧
    ((7 : Nat) < 8 ∧ (31 : Nat) < 2 ^ 5 ∧ (63 : Nat) < 2 ^ 6 ∧ (127 : Nat) < 2 ^ 7) ∧
    (List.replicate 15 (ListEntry.range 255)).length ≤ 15 ∧
    (let g : Grant := { dir := .ul, slot := 0, tag := 255, band := 5, start := 47, size := 8, count := 8,
                        order := .interleaved, reach := .far, quality := 15 }
     g.size = 2 ^ 3 ∧ g.count ≤ 8) := by decide +kernel

/-! ### Witnesses: the laws

The worked placement in flight, with one ranked grant made, satisfies every law and answers a next state at a step. -/

/-- The state, with the next command at the front. -/
def lawful : State := (run [.placementBegin, .dataGrant] worked).setPending [.dataGrant]

theorem lawful_steps : step lawful = .next (after .dataGrant (lawful.setPending [])) := rfl

theorem lawful_station : StationLaw lawful := by unfold StationLaw; decide +kernel

theorem witness_StationLawKept : StationLaw lawful ∧ step lawful = .next (after .dataGrant (lawful.setPending [])) :=
  ⟨lawful_station, lawful_steps⟩

/-- `lawful` with an interval open in both directions, not past its pulse t+4. -/
theorem witness_SizesAndRangesKept : StationLaw lawful ∧ SizeLaw lawful ∧ RangeLaw lawful ∧
    OpenLaw (lawful.setOpenIntervals [⟨2049, .dl, none⟩, ⟨2049, .ul, none⟩]) := by
  refine ⟨lawful_station, by unfold SizeLaw; decide +kernel,
    range_of (by unfold Profile.inRange; decide +kernel) (by decide +kernel) (by decide +kernel), ?_⟩
  exact ⟨by decide +kernel, by decide +kernel, by decide +kernel, both (by decide +kernel) (by decide +kernel)⟩

theorem witness_ClaimLawsKept : StationLaw lawful ∧ MapLaw lawful ∧ QuotaLaw lawful := by
  refine ⟨lawful_station, by unfold MapLaw; decide +kernel, by unfold QuotaLaw; decide +kernel⟩

theorem lawful_table : TableLaw lawful := by
  unfold TableLaw
  refine ⟨?_, ?_, by decide +kernel, by decide +kernel, by decide +kernel, by decide +kernel⟩
  · have h : ∀ t, (lawful.slotOf t).all fun i => decide ((lawful.ctx i).tag = some t ∧ (lawful.tagEntry t).quarantine = 0) := by
      decide +kernel
    intro t i e
    simpa [e] using h t
  · have h : ∀ i, (lawful.ctx i).tag.all fun t => decide (lawful.slotOf t = some i) := by decide +kernel
    intro i t e
    simpa [e] using h i

theorem witness_TableLawKept : StationLaw lawful ∧ TableLaw lawful := ⟨lawful_station, lawful_table⟩

theorem witness_PendingLawKept : StationLaw lawful ∧ TableLaw lawful ∧ PendingLaw lawful := by
  refine ⟨lawful_station, lawful_table, ?_⟩
  unfold PendingLaw
  exact ⟨fun i => both (by revert i; decide +kernel) (by revert i; decide +kernel), by decide +kernel⟩

/-- The flight of `lawful`. -/
def lawfulFlight : Flight := (lawful.flight).getD (flying candidate .ended)

/-- The ranked candidates a stage still has to serve. -/
def leftOf : Stage → List Ranked
  | .serve _ left => left
  | .rank _ => []
  | .walk _ _ => []
  | .ended => []

theorem lawful_flight : lawful.flight = some lawfulFlight := by decide +kernel

theorem lawful_grid : GridLaw lawful := by
  intro f hf
  obtain rfl : lawfulFlight = f := Option.some.inj (lawful_flight.symm.trans hf)
  unfold Grant.shaped
  refine ⟨by decide +kernel, by decide +kernel, by decide +kernel, by decide +kernel, by decide +kernel,
    both (by decide +kernel) (by decide +kernel), ?_⟩
  have e : lawfulFlight.stage = .serve .dl (leftOf lawfulFlight.stage) := by decide +kernel
  unfold Flight.staged
  rw [e]
  unfold Flight.grantedTo
  decide +kernel

theorem witness_GridLawKept : StationLaw lawful ∧ GridLaw lawful ∧ lawful.flight = some lawfulFlight :=
  ⟨lawful_station, lawful_grid, lawful_flight⟩

/-- No flight; `lawful`, where placing is left over; a flight at its end with room for exactly its one telegram, before
pulse t+4 and after it, the deadline due then. -/
theorem witness_PlacementCompletes :
    let f := flying candidate .ended
    let s := ((busyAt 2048).setFlight (some f)).setTxQueue (List.replicate 23 (waiting .alert .unreported))
    let late := (s.setInterval 2054).setDeadlinesDue [2050]
    (busy.agenda = [] ∧ busy.flight = none) ∧
    (lawful.agenda = [] ∧ lawful.flight = some lawfulFlight ∧ lawfulFlight.stage ≠ .ended) ∧ GridLaw lawful ∧
    (s.agenda = [] ∧ s.closesDue = [] ∧ s.acting = true ∧ s.flight = some f ∧ f.stage = .ended ∧
      s.txQueue.length + (listPieces []).length ≤ 24 ∧ age s.interval f.target = 4094) ∧
    (age late.interval f.target = 4 ∧ f.target ∈ late.deadlinesDue) := by
  exact ⟨by decide +kernel, by decide +kernel, lawful_grid, by decide +kernel, by decide +kernel⟩

end Sys2Proof.Tests
end

section
/-! SUPPORT. First elements of a table in ascending order, payload words read back, interval order (R9), and what a
telegram row does with the head of the receive buffer (R156). -/
namespace Sys2Proof.Machine

/-! ### Searches in ascending order -/

/-- A search through all numbers in ascending order finds the lowest one that satisfies the test. -/
theorem find?_finRange_eq_some {n : Nat} {p : Fin n → Bool} {i : Fin n} (hi : p i = true)
    (hlow : ∀ j < i, p j = false) : (List.finRange n).find? p = some i := by
  rw [← Fin.find?_eq_find?_finRange, Fin.find?_eq_some_iff]
  exact ⟨hi, hlow⟩

/-! ### Payload words (R162) -/

theorem foldl_bytesOf (n w acc : Nat) :
    (bytesOf n w).foldl (fun w b => w * 256 + b.toNat) acc = acc * 256 ^ n + w % 256 ^ n := by
  induction n generalizing acc with
  | zero => simp [bytesOf, Nat.mod_one]
  | succ n ih =>
    have hshift : w >>> (8 * n) = w / 256 ^ n := by
      rw [Nat.shiftRight_eq_div_pow, pow_mul, show 2 ^ 8 = 256 from rfl]
    have hbyte : (BitVec.ofNat 8 (w >>> (8 * n))).toNat = w / 256 ^ n % 256 := by
      rw [BitVec.toNat_ofNat, hshift]
    rw [bytesOf, List.foldl_cons, ih, hbyte, Nat.mod_pow_succ (x := w), pow_succ]
    ring

/-- A payload of `n` bytes reads back as the low `n` bytes of the word it was written from. -/
theorem wordOf_bytesOf (n w : Nat) : wordOf (bytesOf n w) = w % 256 ^ n := by
  simp [wordOf, foldl_bytesOf]

@[simp] theorem bytesOf_length (n w : Nat) : (bytesOf n w).length = n := by
  induction n with
  | zero => rfl
  | succ n ih => rw [bytesOf, List.length_cons, ih]

theorem bits_eq (w hi lo : Nat) : bits w hi lo = w / 2 ^ lo % 2 ^ (hi + 1 - lo) := by
  rw [bits, Nat.shiftRight_eq_div_pow]

theorem field_eq (v width lo : Nat) : field v width lo = v % 2 ^ width * 2 ^ lo := by
  rw [field, Nat.shiftLeft_eq]

/-- An ADMIT is read as it was sent. -/
theorem readAdmit_admitPayload (id : Identity) (q : Quality) (a : Interval) :
    readAdmit (admitPayload id q a) = some { identity := id, quality := q, interval := a } := by
  have hid := id.isLt
  have hq := q.isLt
  have ha := a.isLt
  have hword : wordOf (admitPayload id q a) = id.toNat * 2 ^ 16 + q.val * 2 ^ 12 + a.val := by
    simp only [admitPayload, wordOf_bytesOf, field_eq]
    omega
  have hidentity : bits (wordOf (admitPayload id q a)) 39 16 = id.toNat := by rw [hword, bits_eq]; omega
  have hquality : bits (wordOf (admitPayload id q a)) 15 12 = q.val := by rw [hword, bits_eq]; omega
  have hinterval : bits (wordOf (admitPayload id q a)) 11 0 = a.val := by rw [hword, bits_eq]; omega
  have hlen : (admitPayload id q a).length = 5 := bytesOf_length 5 _
  simp [readAdmit, hlen, hidentity, hquality, hinterval]

/-! ### Interval order and the two contests (R9, R36, R75) -/

/-- `a1` is earlier than `a2` when the way from `a1` to `a2` is 1 to 2047 intervals long. -/
theorem earlier_iff (a1 a2 : Interval) : earlier a1 a2 = true ↔
    1 ≤ (a2.val + 4096 - a1.val) % 4096 ∧ (a2.val + 4096 - a1.val) % 4096 ≤ 2047 := by
  have hway : (a2 - a1).val = (a2.val + 4096 - a1.val) % 4096 := by rw [Fin.val_sub]; congr 1; omega
  rw [earlier, decide_eq_true_iff, hway]

/-- Of two different intervals that do not stand 2048 apart, exactly one is earlier. -/
theorem earlier_eq_not {a1 a2 : Interval} (hne : a1 ≠ a2) (hfar : (a2.val + 4096 - a1.val) % 4096 ≠ 2048) :
    earlier a1 a2 = !earlier a2 a1 := by
  have hval : a1.val ≠ a2.val := fun h => hne (Fin.ext h)
  rw [Bool.eq_not, Ne, Bool.eq_iff_iff, earlier_iff, earlier_iff]
  omega

theorem earlier_asymm {a1 a2 : Interval} (h : earlier a1 a2 = true) : earlier a2 a1 = false := by
  rw [← Bool.not_eq_true]
  rw [earlier_iff] at h ⊢
  omega

theorem winsClaim_of_earlier {a1 a2 : Interval} (n1 n2 : Station) (h : earlier a1 a2 = true) :
    winsClaim a1 a2 n1 n2 = true := by
  simp [winsClaim, h]

theorem winsClaim_of_later {a1 a2 : Interval} (n1 n2 : Station) (h : earlier a2 a1 = true) :
    winsClaim a1 a2 n1 n2 = false := by
  simp [winsClaim, h, earlier_asymm h]

theorem winsClaim_of_neither {a1 a2 : Interval} (n1 n2 : Station) (h : earlier a1 a2 = false)
    (h' : earlier a2 a1 = false) : winsClaim a1 a2 n1 n2 = decide (n1 < n2) := by
  simp [winsClaim, h, h']

/-- Two different stations come to opposite verdicts in the claim contest. -/
theorem winsClaim_eq_not (a1 a2 : Interval) {n1 n2 : Station} (hn : n1 ≠ n2) :
    winsClaim a1 a2 n1 n2 = !winsClaim a2 a1 n2 n1 := by
  cases h12 : earlier a1 a2 with
  | true => rw [winsClaim_of_earlier n1 n2 h12, winsClaim_of_later n2 n1 h12]; rfl
  | false =>
    cases h21 : earlier a2 a1 with
    | true => rw [winsClaim_of_later n1 n2 h21, winsClaim_of_earlier n2 n1 h21]; rfl
    | false =>
      rw [winsClaim_of_neither n1 n2 h12 h21, winsClaim_of_neither n2 n1 h21 h12, ← decide_not,
        decide_eq_decide, not_lt]
      exact hn.le_iff_lt.symm

theorem winsHandover_of_better {q1 q2 : Quality} (a1 a2 : Interval) (n1 n2 : Station) (h : q2 < q1) :
    winsHandover q1 q2 a1 a2 n1 n2 = true := by
  simp [winsHandover, h]

theorem winsHandover_of_worse {q1 q2 : Quality} (a1 a2 : Interval) (n1 n2 : Station) (h : q1 < q2) :
    winsHandover q1 q2 a1 a2 n1 n2 = false := by
  simp [winsHandover, h, h.le]

/-- At equal quality the handover contest is decided as the claim contest is. -/
theorem winsHandover_of_equal (q : Quality) (a1 a2 : Interval) (n1 n2 : Station) :
    winsHandover q q a1 a2 n1 n2 = winsClaim a1 a2 n1 n2 := by
  simp [winsHandover, winsClaim]

/-- Two different stations come to opposite verdicts in the handover contest. -/
theorem winsHandover_eq_not (q1 q2 : Quality) (a1 a2 : Interval) {n1 n2 : Station} (hn : n1 ≠ n2) :
    winsHandover q1 q2 a1 a2 n1 n2 = !winsHandover q2 q1 a2 a1 n2 n1 := by
  rcases lt_trichotomy q1 q2 with h | rfl | h
  · rw [winsHandover_of_worse a1 a2 n1 n2 h, winsHandover_of_better a2 a1 n2 n1 h]; rfl
  · rw [winsHandover_of_equal, winsHandover_of_equal, winsClaim_eq_not a1 a2 hn]
  · rw [winsHandover_of_better a1 a2 n1 n2 h, winsHandover_of_worse a2 a1 n2 n1 h]; rfl

/-! ### Searches of the context table and the tag map (R16, R19, R20) -/

/-- The slot that holds an identity is the lowest in use that does. -/
theorem holder_eq_some {s : State} {id : Identity} {i : Slot} (hu : (s.ctx i).inUse = true)
    (hid : (s.ctx i).identity = some id)
    (hlow : ∀ j < i, (s.ctx j).inUse = true → (s.ctx j).identity ≠ some id) : s.holder id = some i :=
  find?_finRange_eq_some (by simp [hu, hid]) fun j hj => by simpa using hlow j hj

theorem holder_eq_none {s : State} {id : Identity}
    (h : ∀ i, (s.ctx i).inUse = true → (s.ctx i).identity ≠ some id) : s.holder id = none := by
  rw [State.holder, List.find?_eq_none]
  intro i _
  simpa using h i

theorem lowestFree_eq_some {s : State} {i : Slot} (hfree : (s.ctx i).inUse = false)
    (hlow : ∀ j < i, (s.ctx j).inUse = true) : s.lowestFree = some i :=
  find?_finRange_eq_some (by simp [hfree]) fun j hj => by simp [hlow j hj]

theorem lowestFree_eq_none {s : State} (h : ∀ i, (s.ctx i).inUse = true) : s.lowestFree = none := by
  rw [State.lowestFree, List.find?_eq_none]
  intro i _
  simp [h i]

/-- The tag search finds the unassigned tag nearest to the tag pointer, counted upward with the wrap. -/
theorem searchTag_eq_some {s : State} {g : Tag} (hg : (s.tagEntry g).unassigned = true)
    (hlow : ∀ h : Tag, (h - s.tagPtr).val < (g - s.tagPtr).val → (s.tagEntry h).unassigned = false) :
    s.searchTag = some g := by
  have hfirst : allTags.find? ((fun t => (s.tagEntry t).unassigned) ∘ fun k => s.tagPtr + k) =
      some (g - s.tagPtr) := by
    refine find?_finRange_eq_some (by simpa using hg) fun k hk => hlow (s.tagPtr + k) ?_
    simpa using hk
  rw [State.searchTag, List.find?_map, hfirst, Option.map_some, add_sub_cancel]

theorem room_eq_some {s : State} {i : Slot} {g : Tag} (ht : s.tagsTaken < 192) (hi : s.lowestFree = some i)
    (hg : s.searchTag = some g) : s.room = some (i, g) := by
  simp [State.room, ht, hi, hg]

/-- There is no room when 192 tags are taken or no slot is free. -/
theorem room_eq_none {s : State} (h : 192 ≤ s.tagsTaken ∨ ∀ i, (s.ctx i).inUse = true) : s.room = none := by
  unfold State.room
  rcases h with ht | hu
  · rw [if_neg (by omega)]
  · rw [lowestFree_eq_none hu]
    split <;> rfl

/-! ### The head of the receive buffer -/

/-- A row whose telegram stands at the head takes it and acts on it. -/
theorem takeHead_of_hasHead {s : State} {k : Kind} {source : Station} {p : List Byte} {rest : List RxTelegram}
    {mine : RxTelegram → Bool} {act : RxTelegram → State → State} (h : s.hasHead k source p rest)
    (hmine : mine { kind := k, source := source, payload := p } = true) :
    takeHead mine act (settle s) = act { kind := k, source := source, payload := p } (s.setRxBuffer rest) := by
  obtain ⟨hact, hagenda, hrx⟩ := h
  rw [settle_of_empty hagenda]
  simp only [takeHead, hrx, hmine, hact, if_true]

theorem onPayload_of_read {α : Type} {read : List Byte → Option α} {act : α → State → State} {t : RxTelegram}
    {s : State} {r : α} (h : read t.payload = some r) : onPayload read act t s = act r s := by
  simp only [onPayload, h]

theorem isKind_self (k : Kind) (source : Station) (p : List Byte) :
    RxTelegram.isKind k { kind := k, source := source, payload := p } = true := by
  simp [RxTelegram.isKind]

end Sys2Proof.Machine
end

section
/-! The subscriber context family: ATTACH (R20, R21, R43 to R47), ADMIT (R35 to R37), the contests (R9, R36, R75). -/
namespace Sys2Proof.Machine

/-! ### The contests -/

/-- Settles O31: each contest's verdict is the order of its first difference, and each order is antisymmetric. -/
theorem contestVerdicts : Obligations.ContestVerdicts :=
  ⟨earlier_iff, fun _ _ => earlier_eq_not, fun a1 a2 _ _ => winsClaim_eq_not a1 a2,
    fun q1 q2 a1 a2 _ _ => winsHandover_eq_not q1 q2 a1 a2,
    fun q1 _ a1 a2 n1 n2 => ⟨winsHandover_of_better a1 a2 n1 n2,
      fun h => by subst h; exact winsHandover_of_equal q1 a1 a2 n1 n2⟩,
    fun a1 a2 n1 n2 => ⟨winsClaim_of_earlier n1 n2, winsClaim_of_later n1 n2,
      fun h h' => by rw [winsClaim_of_neither n1 n2 h h', decide_eq_true_iff]⟩⟩

/-! ### ADMIT -/

theorem exec_peerAdmit_of_hasHead {s : State} {source : Station} {id : Identity} {q : Quality} {a : Interval}
    {rest : List RxTelegram} (h : s.hasHead .admission source (admitPayload id q a) rest) :
    exec .peerAdmit s =
      .next (takeAdmit source { identity := id, quality := q, interval := a } (s.setRxBuffer rest)) := by
  show execAdmit s = _
  rw [execAdmit, takeHead_of_hasHead h (isKind_self _ _ _), onPayload_of_read (readAdmit_admitPayload id q a)]

theorem takeAdmit_of_own {s : State} {source : Station} (a : AdmitTelegram) (h : source = s.ownStation) :
    takeAdmit source a s = s := by
  simp [takeAdmit, h]

theorem takeAdmit_of_not_held {s : State} (source : Station) {a : AdmitTelegram} (h : s.holder a.identity = none) :
    takeAdmit source a s = s := by
  simp [takeAdmit, h]

/-- The own admission wins: it is sent again with the values held (R37). -/
theorem takeAdmit_of_win {s : State} {source : Station} {a : AdmitTelegram} {i : Slot}
    (hsource : source ≠ s.ownStation) (hheld : s.holder a.identity = some i)
    (hwin : winsHandover (s.ctx i).attachQuality a.quality (s.ctx i).admitted a.interval s.ownStation source = true) :
    takeAdmit source a s = offerAdmit a.identity (s.ctx i).attachQuality (s.ctx i).admitted s := by
  simp [takeAdmit, hsource, hheld, hwin]

/-- The peer's admission wins: the terminal was handed over (R36, R37). -/
theorem takeAdmit_of_loss {s : State} {source : Station} {a : AdmitTelegram} {i : Slot}
    (hsource : source ≠ s.ownStation) (hheld : s.holder a.identity = some i)
    (hloss : winsHandover (s.ctx i).attachQuality a.quality (s.ctx i).admitted a.interval s.ownStation source = false) :
    takeAdmit source a s = releaseContext i .handedOver s := by
  simp [takeAdmit, hsource, hheld, hloss]

/-- Settles O30: the telegram is read back as sent, and the holder search decides between its cases. -/
theorem heardAdmit : Obligations.HeardAdmit := by
  intro s source id q a rest h u
  have hexec : exec .peerAdmit s = .next (takeAdmit source { identity := id, quality := q, interval := a } u) :=
    exec_peerAdmit_of_hasHead h
  rw [hexec]
  refine ⟨fun hown => ?_, fun hnone => ?_, fun i hsource hu hid hlow => ⟨fun hwin => ?_, fun hloss => ?_⟩⟩
  · exact congrArg Host.Outcome.next (takeAdmit_of_own _ hown)
  · exact congrArg Host.Outcome.next (takeAdmit_of_not_held source (holder_eq_none hnone))
  · exact congrArg Host.Outcome.next (takeAdmit_of_win hsource (holder_eq_some hu hid hlow) hwin)
  · exact congrArg Host.Outcome.next (takeAdmit_of_loss hsource (holder_eq_some hu hid hlow) hloss)

/-! ### ATTACH -/

theorem exec_attach_of_hasHead {s : State} {source : Station} {p : List Byte} {a : AttachReport}
    {rest : List RxTelegram} (h : s.hasHead .attach source p rest) (hread : readAttach p = some a) :
    exec .attach s = .next (takeAttach a (s.setRxBuffer rest)) := by
  show execAttach s = _
  rw [execAttach, takeHead_of_hasHead h (isKind_self _ _ _), onPayload_of_read hread]

theorem takeAttach_out_of_range {s : State} {a : AttachReport} (h : s.profile.taLimit < a.delay) :
    takeAttach a s = refuseAttach a.identity .rangeOut s := by
  simp [takeAttach, h]

theorem takeAttach_without_room {s : State} {a : AttachReport} (hta : a.delay ≤ s.profile.taLimit)
    (hnew : s.holder a.identity = none) (hroom : s.room = none) :
    takeAttach a s = refuseAttach a.identity .tableFull s := by
  simp [takeAttach, hta.not_gt, hnew, hroom]

theorem takeAttach_with_room {s : State} {a : AttachReport} {i : Slot} {g : Tag}
    (hta : a.delay ≤ s.profile.taLimit) (hnew : s.holder a.identity = none) (hroom : s.room = some (i, g)) :
    takeAttach a s = admitContext i g a s := by
  simp [takeAttach, hta.not_gt, hnew, hroom]

theorem takeAttach_of_held {s : State} {a : AttachReport} {i : Slot} {g : Tag} (hta : a.delay ≤ s.profile.taLimit)
    (hheld : s.holder a.identity = some i) (htag : (s.ctx i).tag = some g) :
    takeAttach a s = offerTagAssign g a.identity (writeAndClassify i ((s.ctx i).reattached a) s) := by
  simp [takeAttach, hta.not_gt, hheld, htag]

theorem writeAndClassify_profile (i : Slot) (c : Context) (s : State) :
    (writeAndClassify i c s).profile = s.profile :=
  writeAndClassify_keeps i c s .profile (by decide)

/-- A re-attach writes the reported fields, and leaves RECOVERY for ACTIVE (R26, R44). -/
theorem reattached_eq (c : Context) (a : AttachReport) :
    let fields := { c with
      ta := a.delay, attachQuality := a.quality, kind := a.kind, cls := a.cls, silence := 0
      qWide := if c.q = none then a.quality else c.qWide }
    c.reattached a =
      if fields.life = .recovery then { fields with life := .active, retrain := false, dormancy := 0 } else fields := by
  simp only [Context.reattached, Context.leaveRecovery, Option.isNone_iff_eq_none]

/-- Settles O18: the TA limit, the holder search and the search for room decide between the cases of ATTACH, one rule of
`takeAttach` for each. -/
theorem attachTaken : Obligations.AttachTaken := by
  intro s source p a rest h hread u
  have hexec : exec .attach s = .next (takeAttach a u) := exec_attach_of_hasHead h hread
  rw [hexec]
  refine ⟨fun hfar => ?_, fun hta hnew => ⟨fun hfull => ?_, fun i g ht hfree hlow hg hfirst => ?_⟩,
    fun i g hta hu hid hlow htag => ?_⟩
  · exact congrArg Host.Outcome.next (takeAttach_out_of_range hfar)
  · exact congrArg Host.Outcome.next (takeAttach_without_room hta (holder_eq_none hnew) (room_eq_none hfull))
  · have hroom : u.room = some (i, g) :=
      room_eq_some ht (lowestFree_eq_some hfree hlow) (searchTag_eq_some hg hfirst)
    exact congrArg Host.Outcome.next (takeAttach_with_room hta (holder_eq_none hnew) hroom)
  · have hheld : u.holder a.identity = some i := holder_eq_some hu hid hlow
    rw [takeAttach_of_held (s := u) hta hheld htag, offerTagAssign, writeAndClassify_profile, reattached_eq]
    rfl

end Sys2Proof.Machine
end

section
/-! Report intake: what a release does (R30, R31, R33, R48, R147), reach with hysteresis (R56, R57), and QUALITY, RANGE and
BUFFER applied to a context (R23, R26, R28, R49 to R55). -/
namespace Sys2Proof.Machine

/-! ### From a telegram row to the context its tag names (R40) -/

/-- A row acts on what the payload of the head telegram reads as, the telegram taken out of the buffer. -/
theorem takeHead_onPayload {α : Type} {s : State} {k : Kind} {source : Station} {p : List Byte} {rest : List RxTelegram}
    {read : List Byte → Option α} {act : α → State → State} {r : α} (h : s.hasHead k source p rest)
    (hread : read p = some r) :
    takeHead (·.isKind k) (onPayload read act) (settle s) = act r (s.setRxBuffer rest) := by
  rw [takeHead_of_hasHead h (isKind_self _ _ _), onPayload_of_read hread]

theorem onTag_of_valid {g : Tag} {i : Slot} {act : Slot → State → State} {s : State} (h : s.slotOf g = some i) :
    onTag g act s = act i s := by
  simp only [onTag, h]

theorem onTag_of_quarantined {g : Tag} {act : Slot → State → State} {s : State} (h : s.slotOf g = none)
    (hq : 0 < (s.tagEntry g).quarantine) : onTag g act s = s := by
  simp only [onTag, h, hq.ne', if_false]

theorem onTag_of_unassigned {g : Tag} {act : Slot → State → State} {s : State} (h : s.slotOf g = none)
    (hq : (s.tagEntry g).quarantine = 0) : onTag g act s = raise .tagUnknown s := by
  simp only [onTag, h, hq, if_true]

/-- A one-byte payload names the tag it was written from. -/
theorem readTag_bytesOf (g : Tag) : readTag (bytesOf 1 g.val) = some g := by
  have hg : Fin.ofNat 256 (wordOf (bytesOf 1 g.val)) = g := by
    ext
    rw [wordOf_bytesOf, Fin.val_ofNat]
    omega
  rw [readTag, bytesOf_length, if_pos rfl, hg]

theorem exec_detach_of_hasHead {s : State} {source : Station} {g : Tag} {rest : List RxTelegram}
    (h : s.hasHead .detach source (bytesOf 1 g.val) rest) :
    exec .detach s = .next (onTag g (fun i => releaseContext i .detached) (s.setRxBuffer rest)) :=
  congrArg Host.Outcome.next (takeHead_onPayload h (readTag_bytesOf g))

theorem exec_release_of_hasHead {s : State} {source : Station} {g : Tag} {rest : List RxTelegram}
    (h : s.hasHead .release source (bytesOf 1 g.val) rest) :
    exec .release s = .next (releaseTag g (s.setRxBuffer rest)) :=
  congrArg Host.Outcome.next (takeHead_onPayload h (readTag_bytesOf g))

theorem exec_quality_of_valid {s : State} {source : Station} {p : List Byte} {r : QualityReport}
    {rest : List RxTelegram} {i : Slot} (h : s.hasHead .quality source p rest) (hread : readQuality p = some r)
    (hslot : s.slotOf r.tag = some i) : exec .quality s = .next (applyQuality r i (s.setRxBuffer rest)) :=
  congrArg Host.Outcome.next ((takeHead_onPayload h hread).trans (onTag_of_valid hslot))

theorem exec_range_of_valid {s : State} {source : Station} {p : List Byte} {r : RangeReport}
    {rest : List RxTelegram} {i : Slot} (h : s.hasHead .range source p rest) (hread : readRange p = some r)
    (hslot : s.slotOf r.tag = some i) : exec .range s = .next (applyRange r i (s.setRxBuffer rest)) :=
  congrArg Host.Outcome.next ((takeHead_onPayload h hread).trans (onTag_of_valid hslot))

theorem exec_buffer_of_valid {s : State} {source : Station} {p : List Byte} {r : BufferReport}
    {rest : List RxTelegram} {i : Slot} (h : s.hasHead .buffer source p rest) (hread : readBuffer p = some r)
    (hslot : s.slotOf r.tag = some i) : exec .buffer s = .next (applyBuffer r i (s.setRxBuffer rest)) :=
  congrArg Host.Outcome.next ((takeHead_onPayload h hread).trans (onTag_of_valid hslot))

/-! ### Release -/

/-- The RELEASE NOTICE for a tag (R30, R162). -/
def State.releaseNotice (s : State) (g : Tag) (reason : ReleaseReason) : TxTelegram :=
  telegram .releaseNotice s.profile.partner (releaseNoticePayload g reason) .unreported

/-- The state after the steps of a release, before its condition is raised (R30, R147). -/
def State.freed (s : State) (i : Slot) (g : Tag) (reason : ReleaseReason) : State :=
  (orphanRecords i g ((offer (s.releaseNotice g reason) s).putTag g ⟨none, 64⟩)).putCtx i Context.free

theorem releaseContext_of_condition {i : Slot} {reason : ReleaseReason} {g : Tag} {c : Condition} {s : State}
    (htag : (s.ctx i).tag = some g) (hc : reason.condition (s.ctx i).kind = some c) :
    releaseContext i reason s = raise c (s.freed i g reason) := by
  simp only [releaseContext, htag, hc]
  rfl

theorem releaseContext_without_condition {i : Slot} {reason : ReleaseReason} {g : Tag} {s : State}
    (htag : (s.ctx i).tag = some g) (hc : reason.condition (s.ctx i).kind = none) :
    releaseContext i reason s = s.freed i g reason := by
  simp only [releaseContext, htag, hc]
  rfl

/-- Only OUT OF RANGE, and LOST of a fixed terminal, have a condition (R31). -/
theorem condition_eq_none {reason : ReleaseReason} {kind : TerminalKind} (hrange : reason ≠ .outOfRange)
    (hlost : ¬(reason = .lost ∧ kind = .fixed)) : reason.condition kind = none := by
  cases reason with
  | detached => rfl
  | lost => exact if_neg fun hk => hlost ⟨rfl, hk⟩
  | handedOver => rfl
  | forced => rfl
  | outOfRange => exact absurd rfl hrange

/-- The notice carries the tag and the code of the reason, a byte each (R162). -/
theorem releaseNoticePayload_eq (g : Tag) (reason : ReleaseReason) :
    releaseNoticePayload g reason = [BitVec.ofNat 8 g.val, BitVec.ofNat 8 reason.code] := by
  have hcode : reason.code < 256 := by cases reason <;> decide
  have hg := g.isLt
  have hword : field g.val 8 8 + field reason.code 8 0 = g.val * 256 + reason.code := by
    rw [field_eq, field_eq]
    omega
  have hhigh : (g.val * 256 + reason.code) >>> (8 * 1) = g.val := by
    rw [Nat.shiftRight_eq_div_pow]
    omega
  have hlow : BitVec.ofNat 8 ((g.val * 256 + reason.code) >>> (8 * 0)) = BitVec.ofNat 8 reason.code := by
    apply BitVec.eq_of_toNat_eq
    simp only [BitVec.toNat_ofNat, Nat.mul_zero, Nat.shiftRight_zero]
    omega
  rw [releaseNoticePayload, hword, bytesOf, bytesOf, bytesOf, hhigh, hlow]

theorem offer_tags (t : TxTelegram) (s : State) : (offer t s).tags = s.tags := offer_keeps t s .tags (by decide)

/-- Offering the notice leaves the tag map alone, so the quarantine is written into the map as it was. -/
theorem freed_eq (s : State) (i : Slot) (g : Tag) (reason : ReleaseReason) :
    s.freed i g reason =
      (((offer (s.releaseNotice g reason) s).setTags (s.tags.set g ⟨none, 64⟩)).setRecords
        ((offer (s.releaseNotice g reason) s).records.map fun r =>
          if r.slot = i ∧ r.tag = g then { r with orphan := true } else r)).putCtx i Context.free := by
  rw [State.freed, State.putTag, offer_tags]
  rfl

theorem releaseTag_of_valid {g : Tag} {i : Slot} {s : State} (h : s.slotOf g = some i) :
    releaseTag g s = releaseContext i .forced s := by
  simp only [releaseTag, h]

theorem releaseTag_of_invalid {g : Tag} {s : State} (h : s.slotOf g = none) : releaseTag g s = s := by
  simp only [releaseTag, h]

/-- Settles O16: the reason's condition decides how a release ends, and the tag map whether DETACH and RELEASE reach one. -/
theorem releaseFreesContext : Obligations.ReleaseFreesContext := by
  refine ⟨fun i reason g s hact htag => ?_, fun s source g rest => ⟨fun h => ?_, fun h => ?_⟩⟩
  · intro notice noticed freed
    have hnotice : notice = s.releaseNotice g reason := by
      rw [State.releaseNotice, releaseNoticePayload_eq]
      cases reason <;> rfl
    have hfreed : freed = s.freed i g reason := by
      rw [freed_eq, ← hnotice]
    rw [hfreed]
    refine ⟨offer_room hact, fun hlost hfixed => ?_, fun hrange => ?_, fun hrange hlost => ?_⟩
    · exact releaseContext_of_condition htag (by rw [hlost, hfixed]; rfl)
    · exact releaseContext_of_condition htag (by rw [hrange]; rfl)
    · exact releaseContext_without_condition htag (condition_eq_none hrange hlost)
  · rw [exec_detach_of_hasHead h]
    exact ⟨fun i hi => congrArg Host.Outcome.next (onTag_of_valid hi),
      fun hnone hq => congrArg Host.Outcome.next (onTag_of_quarantined hnone hq),
      fun hnone hq => congrArg Host.Outcome.next (onTag_of_unassigned hnone hq)⟩
  · rw [exec_release_of_hasHead h]
    exact ⟨fun i hi => congrArg Host.Outcome.next (releaseTag_of_valid hi),
      fun hnone => congrArg Host.Outcome.next (releaseTag_of_invalid hnone)⟩

/-! ### Reach -/

theorem reachAfter_of_near (p : Profile) {c : Context} (h : c.reach = .near) :
    reachAfter p c = if p.farTa ≤ c.ta ∨ c.qWide.val ≤ p.farQ then .far else .near := by
  simp only [reachAfter, h]

theorem reachAfter_of_far (p : Profile) {c : Context} (h : c.reach = .far) :
    reachAfter p c = if c.ta + 16 < p.farTa ∧ p.farQ + 1 < c.qWide.val then .near else .far := by
  simp only [reachAfter, h]

theorem writeAndClassify_of_same {i : Slot} {c : Context} {s : State} (h : reachAfter s.profile c = c.reach) :
    writeAndClassify i c s = s.putCtx i c := by
  simp only [writeAndClassify, h, if_true]

theorem writeAndClassify_of_change {i : Slot} {c : Context} {s : State} {reach : Reach}
    (h : reachAfter s.profile c = reach) (hne : reach ≠ c.reach) :
    writeAndClassify i c s = raise .reachChange (s.putCtx i { c with reach := reach }) := by
  simp only [writeAndClassify, h, hne, if_false]

/-- Settles O19: R56 has one test for each reach before the report, and R57 follows its outcome. -/
theorem reachHysteresis : Obligations.ReachHysteresis := by
  refine fun i c s => ⟨fun hnear htest => ?_, fun hnear hta hq => ?_, fun hfar hta hq => ?_, fun hfar htest => ?_⟩
  · exact writeAndClassify_of_change ((reachAfter_of_near _ hnear).trans (if_pos htest)) (by rw [hnear]; decide)
  · have hstay : ¬(s.profile.farTa ≤ c.ta ∨ c.qWide.val ≤ s.profile.farQ) := by omega
    exact writeAndClassify_of_same (((reachAfter_of_near _ hnear).trans (if_neg hstay)).trans hnear.symm)
  · exact writeAndClassify_of_change ((reachAfter_of_far _ hfar).trans (if_pos ⟨hta, hq⟩)) (by rw [hfar]; decide)
  · have hstay : ¬(c.ta + 16 < s.profile.farTa ∧ s.profile.farQ + 1 < c.qWide.val) := by omega
    exact writeAndClassify_of_same (((reachAfter_of_far _ hfar).trans (if_neg hstay)).trans hfar.symm)

/-! ### QUALITY -/

/-- Six qualities sum to at most 90, so their mean is a quality (R49). -/
theorem wideband_val (q : Vector Quality 6) :
    (wideband q).val = (q[0].val + q[1].val + q[2].val + q[3].val + q[4].val + q[5].val) / 6 := by
  have hsum : (wideband q).val =
      (0 + q[0].val + q[1].val + q[2].val + q[3].val + q[4].val + q[5].val) / 6 % 16 := rfl
  omega

theorem heard_eq (c : Context) :
    c.heard = { c with silence := if c.life = .recovery then c.silence else 0 } := by
  unfold Context.heard
  split <;> rfl

theorem withQuality_eq (c : Context) (r : QualityReport) :
    c.withQuality r = { c with
      q := some r.q, qWide := wideband r.q, age := 0, sound := none
      silence := if c.life = .recovery then c.silence else 0 } := by
  rw [Context.withQuality, heard_eq]

theorem drifted_of_serving {c : Context} (h : c.life = .active ∨ c.life = .dormant) : c.drifted = c.enterRecovery := by
  rcases h with h | h <;> simp only [Context.drifted, h]

theorem drifted_of_other {c : Context} (hactive : c.life ≠ .active) (hdormant : c.life ≠ .dormant) :
    c.drifted = c := by
  unfold Context.drifted
  split
  · next h => exact absurd h hactive
  · next h => exact absurd h hdormant
  all_goals rfl

section
variable {r : QualityReport} {i : Slot} {s : State} {c : Context}

theorem applyQuality_of_correction (hc : (s.ctx i).withQuality r = c) (herr : r.error.natAbs < s.profile.drift)
    (hta : correctedTa c.ta r.error ≤ s.profile.taLimit) :
    applyQuality r i s = writeAndClassify i { c with ta := correctedTa c.ta r.error } s := by
  simp only [applyQuality, hc, herr, hta, if_true]

theorem applyQuality_of_out_of_range (hc : (s.ctx i).withQuality r = c) (herr : r.error.natAbs < s.profile.drift)
    (hta : s.profile.taLimit < correctedTa c.ta r.error) :
    applyQuality r i s = releaseContext i .outOfRange (s.putCtx i c) := by
  simp only [applyQuality, hc, herr, hta.not_ge, if_true, if_false]

theorem applyQuality_of_drift (hc : (s.ctx i).withQuality r = c) (herr : s.profile.drift ≤ r.error.natAbs) :
    applyQuality r i s = writeAndClassify i c.drifted s := by
  simp only [applyQuality, hc, herr.not_gt, if_false]

end

/-- Settles O20: the drift threshold, the TA limit and the life of the context decide between the cases of QUALITY. -/
theorem qualityApplied : Obligations.QualityApplied := by
  intro s source p r rest i h hread hslot u c ta
  have hc : (u.ctx i).withQuality r = c := withQuality_eq _ r
  rw [exec_quality_of_valid h hread hslot]
  refine ⟨wideband_val r.q, fun herr hta => ?_, fun herr hta => ?_, fun herr hlife => ?_,
    fun herr hactive hdormant => ?_⟩
  · exact congrArg Host.Outcome.next (applyQuality_of_correction hc herr hta)
  · exact congrArg Host.Outcome.next (applyQuality_of_out_of_range hc herr hta)
  · have hdrifted : c.drifted = c.enterRecovery := drifted_of_serving hlife
    exact congrArg Host.Outcome.next ((applyQuality_of_drift hc herr).trans (by rw [hdrifted]; rfl))
  · have hdrifted : c.drifted = c := drifted_of_other hactive hdormant
    exact congrArg Host.Outcome.next ((applyQuality_of_drift hc herr).trans (by rw [hdrifted]))

/-! ### RANGE and BUFFER -/

section
variable {r : RangeReport} {i : Slot} {s : State}

theorem applyRange_out_of_range (h : s.profile.taLimit < r.delay) :
    applyRange r i s = releaseContext i .outOfRange (s.putCtx i { s.ctx i with silence := 0 }) := by
  simp only [applyRange, h.not_ge, if_false]

theorem applyRange_outside_recovery (h : r.delay ≤ s.profile.taLimit) (hlife : (s.ctx i).life ≠ .recovery) :
    applyRange r i s = writeAndClassify i { s.ctx i with silence := 0, ta := r.delay } s := by
  simp only [applyRange, h, hlife, if_true, if_false]

/-- A RANGE ends RECOVERY (R26). -/
theorem applyRange_in_recovery (h : r.delay ≤ s.profile.taLimit) (hlife : (s.ctx i).life = .recovery) :
    applyRange r i s = writeAndClassify i
      { s.ctx i with silence := 0, ta := r.delay, life := .active, retrain := false, dormancy := 0 } s := by
  simp only [applyRange, h, hlife, Context.leaveRecovery, if_true]

end

/-- The backlog after a BUFFER leaves out what is pending, and wakes a DORMANT context unless it is 0 (R28, R54, R55). -/
theorem applyBuffer_eq (r : BufferReport) (i : Slot) (s : State) :
    let left := 8 * r.bytes - (s.ctx i).pending.at r.dir
    let c := { s.ctx i with
      backlog := (s.ctx i).backlog.put r.dir left
      silence := if (s.ctx i).life = .recovery then (s.ctx i).silence else 0 }
    applyBuffer r i s = s.putCtx i
      (if c.life = .dormant ∧ 0 < left then { c with life := .active, dormancy := 0, silence := 0, age := 4095 }
        else c) := by
  simp only [applyBuffer, heard_eq, Context.woken]

/-- Settles O21: the TA limit and RECOVERY decide between the cases of RANGE; BUFFER has one formula. -/
theorem rangeAndBufferApplied : Obligations.RangeAndBufferApplied := by
  constructor
  · intro s source p r rest i h hread hslot u c
    rw [exec_range_of_valid h hread hslot]
    refine ⟨fun hfar => ?_, fun hta hlife => ?_, fun hta hlife => ?_⟩
    · exact congrArg Host.Outcome.next (applyRange_out_of_range (s := u) hfar)
    · exact congrArg Host.Outcome.next (applyRange_outside_recovery (s := u) hta hlife)
    · exact congrArg Host.Outcome.next (applyRange_in_recovery (s := u) hta hlife)
  · intro s source p r rest i h hread hslot
    rw [exec_buffer_of_valid h hread hslot]
    exact congrArg Host.Outcome.next (applyBuffer_eq r i (s.setRxBuffer rest))

end Sys2Proof.Machine
end

section
/-! SUPPORT. What the model's sort does with a key, and the first elements of a list taken up to a number. -/
namespace Sys2Proof.Machine

/-! ### Sorting, largest key first -/

/-- The order a sort by key leaves: the larger key first, among equal keys the one `ahead` puts first. -/
def KeyOrder {α β : Type} [LT β] (key : α → β) (ahead : α → α → Prop) (x y : α) : Prop :=
  key y < key x ∨ key x = key y ∧ ahead x y

theorem insertBy_perm {α : Type} (before : α → α → Bool) (x : α) (ys : List α) :
    (insertBy before x ys).Perm (x :: ys) := by
  induction ys with
  | nil => exact .refl _
  | cons y ys ih =>
    rw [insertBy]
    split
    · exact .refl _
    · exact (ih.cons y).trans (.swap x y ys)

/-- The element inserted stands behind those it does not exceed, so it has to be later than all of them. -/
theorem insertBy_keyOrder {α β : Type} [LinearOrder β] {key : α → β} {ahead : α → α → Prop} {x : α} {ys : List α}
    (hys : ys.Pairwise (KeyOrder key ahead)) (hlate : ∀ y ∈ ys, ahead y x) :
    (insertBy (fun a b => decide (key b < key a)) x ys).Pairwise (KeyOrder key ahead) := by
  induction ys with
  | nil => exact List.pairwise_singleton _ x
  | cons y ys ih =>
    obtain ⟨hhead, htail⟩ := List.pairwise_cons.mp hys
    obtain ⟨hyx, hlate⟩ := List.forall_mem_cons.mp hlate
    rw [insertBy]
    split
    next hbefore =>
      have hxy : key y < key x := of_decide_eq_true hbefore
      refine List.pairwise_cons.mpr ⟨List.forall_mem_cons.mpr ⟨.inl hxy, fun z hz => .inl ?_⟩, hys⟩
      rcases hhead z hz with hzy | ⟨heq, -⟩
      · exact hzy.trans hxy
      · exact heq ▸ hxy
    next hbefore =>
      have hxy : key x ≤ key y := not_lt.mp (of_decide_eq_false (Bool.not_eq_true _ ▸ hbefore))
      refine List.pairwise_cons.mpr ⟨fun z hz => ?_, ih htail hlate⟩
      rcases List.mem_cons.mp ((insertBy_perm _ x ys).mem_iff.mp hz) with rfl | hz
      · exact hxy.lt_or_eq.imp_right fun heq => ⟨heq.symm, hyx⟩
      · exact hhead z hz

/-- `sortBy` with a part of the list sorted already. -/
theorem foldl_insertBy_perm {α : Type} (before : α → α → Bool) (xs sorted : List α) :
    (xs.foldl (fun sorted x => insertBy before x sorted) sorted).Perm (xs ++ sorted) := by
  induction xs generalizing sorted with
  | nil => exact .refl _
  | cons x xs ih =>
    exact (ih _).trans (((insertBy_perm before x sorted).append_left xs).trans List.perm_middle)

theorem sortBy_perm {α : Type} (before : α → α → Bool) (xs : List α) : (sortBy before xs).Perm xs := by
  have hperm := foldl_insertBy_perm before xs []
  rwa [List.append_nil] at hperm

theorem foldl_insertBy_keyOrder {α β : Type} [LinearOrder β] {key : α → β} {ahead : α → α → Prop}
    {xs sorted : List α} (hxs : xs.Pairwise ahead) (hsorted : sorted.Pairwise (KeyOrder key ahead))
    (hlate : ∀ y ∈ sorted, ∀ x ∈ xs, ahead y x) :
    (xs.foldl (fun sorted x => insertBy (fun a b => decide (key b < key a)) x sorted) sorted).Pairwise
      (KeyOrder key ahead) := by
  induction xs generalizing sorted with
  | nil => exact hsorted
  | cons x xs ih =>
    obtain ⟨hx, hxs⟩ := List.pairwise_cons.mp hxs
    refine ih hxs (insertBy_keyOrder hsorted fun y hy => hlate y hy x List.mem_cons_self) fun y hy z hz => ?_
    rcases List.mem_cons.mp ((insertBy_perm _ x sorted).mem_iff.mp hy) with rfl | hy
    · exact hx z hz
    · exact hlate y hy z (List.mem_cons_of_mem _ hz)

/-- Sorting by a key keeps among equal keys the order the list had. -/
theorem sortBy_keyOrder {α β : Type} [LinearOrder β] {key : α → β} {ahead : α → α → Prop} {xs : List α}
    (hxs : xs.Pairwise ahead) :
    (sortBy (fun a b => decide (key b < key a)) xs).Pairwise (KeyOrder key ahead) :=
  foldl_insertBy_keyOrder hxs .nil fun _ hy => absurd hy List.not_mem_nil

/-! ### The first elements of a list -/

/-- An element is left out of the first `n` only when there are `n` of them. -/
theorem length_take_of_left_out {α : Type} {l : List α} {n : Nat} {x : α} (hx : x ∈ l) (hout : x ∉ l.take n) :
    (l.take n).length = n := by
  rw [List.length_take]
  by_contra hfew
  exact hout (by rwa [List.take_of_length_le (by omega)])

/-- In an ordered list, every element taken comes before every element left out. -/
theorem order_of_left_out {α : Type} {R : α → α → Prop} {l : List α} {n : Nat} {x y : α} (hl : l.Pairwise R)
    (hx : x ∈ l.take n) (hy : y ∈ l) (hout : y ∉ l.take n) : R x y := by
  rw [← List.take_append_drop n l] at hl hy
  obtain ⟨-, -, hacross⟩ := List.pairwise_append.mp hl
  exact hacross x hx y ((List.mem_append.mp hy).resolve_left hout)

/-! ### The slots in ascending order -/

theorem mem_allSlots (i : Slot) : i ∈ allSlots := List.mem_finRange i

theorem allSlots_ascending : allSlots.Pairwise (· < ·) := List.pairwise_lt_finRange 96

theorem allSlots_nodup : allSlots.Nodup := List.nodup_finRange 96

theorem mem_slotsFrom (p i : Slot) : i ∈ slotsFrom p :=
  List.mem_map.mpr ⟨i - p, mem_allSlots _, add_sub_cancel p i⟩

theorem slotsFrom_nodup (p : Slot) : (slotsFrom p).Nodup := allSlots_nodup.map (add_right_injective p)

end Sys2Proof.Machine
end

section
/-! Channel freshness and sounding: the choice of range and SOUND entries, tier by tier (R63 to R66, R68). -/
namespace Sys2Proof.Machine

/-! ### The tiers of a context (R64 to R66) -/

theorem firstTier_iff (c : Context) : c.firstTier = true ↔ c.life = .active ∧ c.age = 4095 ∧ c.sound = none := by
  simp only [Context.firstTier, Bool.and_eq_true, decide_eq_true_eq, Option.isNone_iff_eq_none, and_assoc]

theorem secondTier_iff (c : Context) (h : Nat) :
    c.secondTier h = true ↔ (c.life = .active ∨ c.life = .recovery) ∧ h ≤ c.age ∧ c.sound = none := by
  simp only [Context.secondTier, Bool.and_eq_true, Bool.or_eq_true, decide_eq_true_eq, Option.isNone_iff_eq_none,
    and_assoc]

theorem thirdTier_iff (c : Context) (h : Nat) : c.thirdTier h = true ↔
    (c.life = .active ∧ h / 2 ≤ c.age ∨ c.life = .dormant ∧ 4 * h ≤ c.age) ∧ c.sound = none := by
  simp only [Context.thirdTier, Bool.and_eq_true, Bool.or_eq_true, decide_eq_true_eq, Option.isNone_iff_eq_none]

/-! ### The parts of the choice, each the first of its pool -/

/-- The contexts of the first tier by slot (R64). -/
def State.firstPool (s : State) : List Slot := allSlots.filter fun i => (s.ctx i).firstTier

/-- The contexts chosen from the first tier. -/
def State.firstChosen (s : State) : List Slot := s.firstPool.take s.profile.soundingUnits

/-- The contexts the second tier chooses from, by age and slot (R65). -/
def State.secondPool (s : State) : List Slot :=
  sortBy (fun i j => decide ((s.ctx j).age < (s.ctx i).age))
    (allSlots.filter fun i => (s.ctx i).secondTier s.profile.horizon && !s.firstChosen.contains i)

/-- The contexts chosen from the second tier. -/
def State.secondChosen (s : State) : List Slot := s.secondPool.take (s.profile.soundingUnits - s.firstChosen.length)

/-- The contexts the third tier chooses from, by slot from the refresh pointer (R66). -/
def State.thirdPool (s : State) : List Slot :=
  (slotsFrom s.refreshPtr).filter fun i =>
    (s.ctx i).thirdTier s.profile.horizon && !s.firstChosen.contains i && !s.secondChosen.contains i

theorem third_eq (s : State) : s.soundChoice.third =
    s.thirdPool.take (s.profile.soundingUnits - s.firstChosen.length - s.secondChosen.length) := rfl

theorem chosen_eq (s : State) :
    s.soundChoice.chosen = s.firstChosen ++ s.secondChosen ++ s.soundChoice.third := rfl

section
variable {s : State} {i j : Slot}

theorem mem_firstPool : i ∈ s.firstPool ↔ (s.ctx i).firstTier = true := by
  simp [State.firstPool, mem_allSlots]

theorem mem_secondPool :
    i ∈ s.secondPool ↔ (s.ctx i).secondTier s.profile.horizon = true ∧ i ∉ s.firstChosen := by
  simp [State.secondPool, (sortBy_perm _ _).mem_iff, mem_allSlots]

theorem mem_thirdPool : i ∈ s.thirdPool ↔
    (s.ctx i).thirdTier s.profile.horizon = true ∧ i ∉ s.firstChosen ∧ i ∉ s.secondChosen := by
  simp [State.thirdPool, mem_slotsFrom, and_assoc]

theorem mem_chosen :
    i ∈ s.soundChoice.chosen ↔ i ∈ s.firstChosen ∨ i ∈ s.secondChosen ∨ i ∈ s.soundChoice.third := by
  simp only [chosen_eq, List.mem_append, or_assoc]

theorem not_mem_chosen (hout : i ∉ s.soundChoice.chosen) :
    i ∉ s.firstChosen ∧ i ∉ s.secondChosen ∧ i ∉ s.soundChoice.third := by
  simpa only [mem_chosen, not_or] using hout

theorem firstTier_of_firstChosen (hi : i ∈ s.firstChosen) : (s.ctx i).firstTier = true :=
  mem_firstPool.mp (List.mem_of_mem_take hi)

theorem mem_secondPool_of_chosen (hi : i ∈ s.secondChosen) :
    (s.ctx i).secondTier s.profile.horizon = true ∧ i ∉ s.firstChosen :=
  mem_secondPool.mp (List.mem_of_mem_take hi)

theorem mem_thirdPool_of_chosen (hi : i ∈ s.soundChoice.third) :
    (s.ctx i).thirdTier s.profile.horizon = true ∧ i ∉ s.firstChosen ∧ i ∉ s.secondChosen :=
  mem_thirdPool.mp (List.mem_of_mem_take (third_eq s ▸ hi))

/-! ### How many are chosen -/

theorem firstChosen_length_le (s : State) : s.firstChosen.length ≤ s.profile.soundingUnits := List.length_take_le _ _

theorem secondChosen_length_le (s : State) :
    s.secondChosen.length ≤ s.profile.soundingUnits - s.firstChosen.length := List.length_take_le _ _

theorem third_length_le (s : State) :
    s.soundChoice.third.length ≤ s.profile.soundingUnits - s.firstChosen.length - s.secondChosen.length :=
  List.length_take_le _ _

theorem chosen_length (s : State) : s.soundChoice.chosen.length =
    s.firstChosen.length + s.secondChosen.length + s.soundChoice.third.length := by
  rw [chosen_eq, List.length_append, List.length_append]

theorem chosen_length_le (s : State) : s.soundChoice.chosen.length ≤ s.profile.soundingUnits := by
  have hlength := chosen_length s
  have hfirst := firstChosen_length_le s
  have hsecond := secondChosen_length_le s
  have hthird := third_length_le s
  omega

/-- A context of the first tier is left out only when the first tier has filled all K entries. -/
theorem firstChosen_full (hj : (s.ctx j).firstTier = true) (hout : j ∉ s.firstChosen) :
    s.firstChosen.length = s.profile.soundingUnits :=
  length_take_of_left_out (mem_firstPool.mpr hj) hout

/-- A context of the second tier is left out only when the first two tiers have filled all K entries. -/
theorem secondChosen_full (hj : (s.ctx j).secondTier s.profile.horizon = true) (hfirst : j ∉ s.firstChosen)
    (hsecond : j ∉ s.secondChosen) : s.secondChosen.length = s.profile.soundingUnits - s.firstChosen.length :=
  length_take_of_left_out (mem_secondPool.mpr ⟨hj, hfirst⟩) hsecond

/-- A context of the third tier is left out only when all K entries are filled. -/
theorem third_full (hj : (s.ctx j).thirdTier s.profile.horizon = true) (hout : j ∉ s.soundChoice.chosen) :
    s.soundChoice.third.length = s.profile.soundingUnits - s.firstChosen.length - s.secondChosen.length := by
  obtain ⟨hfirst, hsecond, hthird⟩ := not_mem_chosen hout
  exact length_take_of_left_out (mem_thirdPool.mpr ⟨hj, hfirst, hsecond⟩) hthird

/-! ### No lower tier while a higher one has a context left -/

/-- Beside a context of the first tier left out, neither lower tier is chosen from. -/
theorem lower_tiers_eq_nil_of_first_left (hj : (s.ctx j).firstTier = true) (hout : j ∉ s.firstChosen) :
    s.secondChosen = [] ∧ s.soundChoice.third = [] := by
  have hfull := firstChosen_full hj hout
  have hsecond := secondChosen_length_le s
  have hthird := third_length_le s
  exact ⟨List.length_eq_zero_iff.mp (by omega), List.length_eq_zero_iff.mp (by omega)⟩

/-- Beside a context of the second tier left out, the third tier is not chosen from. -/
theorem third_eq_nil_of_second_left (hj : (s.ctx j).secondTier s.profile.horizon = true) (hfirst : j ∉ s.firstChosen)
    (hsecond : j ∉ s.secondChosen) : s.soundChoice.third = [] := by
  have hfull := secondChosen_full hj hfirst hsecond
  have hthird := third_length_le s
  exact List.length_eq_zero_iff.mp (by omega)

theorem not_firstTier_of_secondChosen (hi : i ∈ s.secondChosen) : (s.ctx i).firstTier = false := by
  by_contra htier
  obtain ⟨-, hfirst⟩ := mem_secondPool_of_chosen hi
  obtain ⟨hnil, -⟩ := lower_tiers_eq_nil_of_first_left (Bool.not_eq_false _ ▸ htier) hfirst
  exact List.ne_nil_of_mem hi hnil

theorem not_higher_tier_of_third (hi : i ∈ s.soundChoice.third) :
    (s.ctx i).firstTier = false ∧ (s.ctx i).secondTier s.profile.horizon = false := by
  obtain ⟨-, hfirst, hsecond⟩ := mem_thirdPool_of_chosen hi
  constructor
  · by_contra htier
    obtain ⟨-, hnil⟩ := lower_tiers_eq_nil_of_first_left (Bool.not_eq_false _ ▸ htier) hfirst
    exact List.ne_nil_of_mem hi hnil
  · by_contra htier
    exact List.ne_nil_of_mem hi (third_eq_nil_of_second_left (Bool.not_eq_false _ ▸ htier) hfirst hsecond)

/-- With fewer than K contexts chosen, no context of a tier is left out. -/
theorem no_tier_of_few_chosen (hfew : s.soundChoice.chosen.length < s.profile.soundingUnits)
    (hout : j ∉ s.soundChoice.chosen) : (s.ctx j).firstTier = false ∧
      (s.ctx j).secondTier s.profile.horizon = false ∧ (s.ctx j).thirdTier s.profile.horizon = false := by
  have hlength := chosen_length s
  obtain ⟨hfirst, hsecond, -⟩ := not_mem_chosen hout
  refine ⟨?_, ?_, ?_⟩ <;> by_contra htier <;> rw [Bool.not_eq_false] at htier
  · have hfull := firstChosen_full htier hfirst
    omega
  · have hfull := secondChosen_full htier hfirst hsecond
    omega
  · have hfull := third_full htier hout
    omega

/-! ### Order, and no context twice -/

/-- The second tier is ordered by age, then by slot (R65). -/
theorem secondPool_keyOrder (s : State) :
    s.secondPool.Pairwise (KeyOrder (fun i => (s.ctx i).age) (· < ·)) :=
  sortBy_keyOrder (allSlots_ascending.filter _)

/-- A context of the second tier left out comes after those chosen from it. -/
theorem keyOrder_of_second_left (hi : i ∈ s.secondChosen) (hj : (s.ctx j).secondTier s.profile.horizon = true)
    (hfirst : j ∉ s.firstChosen) (hsecond : j ∉ s.secondChosen) :
    KeyOrder (fun i => (s.ctx i).age) (· < ·) i j :=
  order_of_left_out (secondPool_keyOrder s) hi (mem_secondPool.mpr ⟨hj, hfirst⟩) hsecond

theorem secondPool_nodup (s : State) : s.secondPool.Nodup :=
  (sortBy_perm _ _).nodup_iff.mpr (allSlots_nodup.filter _)

theorem chosen_nodup (s : State) : s.soundChoice.chosen.Nodup := by
  have hfirst : s.firstChosen.Nodup := (allSlots_nodup.filter _).sublist (List.take_sublist _ _)
  have hsecond : s.secondChosen.Nodup := (secondPool_nodup s).sublist (List.take_sublist _ _)
  have hthird : s.soundChoice.third.Nodup := ((slotsFrom_nodup _).filter _).sublist (List.take_sublist _ _)
  rw [chosen_eq, List.append_assoc]
  refine List.Nodup.append hfirst (List.Nodup.append hsecond hthird ?_) ?_
  · intro i hi hi'
    obtain ⟨-, -, hnot⟩ := mem_thirdPool_of_chosen hi'
    exact hnot hi
  · intro i hi hi'
    rcases List.mem_append.mp hi' with hi' | hi'
    · obtain ⟨-, hnot⟩ := mem_secondPool_of_chosen hi'
      exact hnot hi
    · obtain ⟨-, hnot, -⟩ := mem_thirdPool_of_chosen hi'
      exact hnot hi

theorem sound_of_chosen (hi : i ∈ s.soundChoice.chosen) : (s.ctx i).sound = none := by
  rcases mem_chosen.mp hi with hi | hi | hi
  · obtain ⟨-, -, hsound⟩ := (firstTier_iff _).mp (firstTier_of_firstChosen hi)
    exact hsound
  · obtain ⟨htier, -⟩ := mem_secondPool_of_chosen hi
    obtain ⟨-, -, hsound⟩ := (secondTier_iff _ _).mp htier
    exact hsound
  · obtain ⟨htier, -⟩ := mem_thirdPool_of_chosen hi
    obtain ⟨-, hsound⟩ := (thirdTier_iff _ _).mp htier
    exact hsound

end

/-- The third tier chooses from the contexts neither higher tier has chosen. -/
theorem thirdPool_eq (s : State) : s.thirdPool = (slotsFrom s.refreshPtr).filter fun i =>
    (s.ctx i).thirdTier s.profile.horizon && !(s.firstChosen ++ s.secondChosen).contains i := by
  refine List.filter_congr fun i _ => ?_
  rw [List.contains_append, Bool.not_or, Bool.and_assoc]

theorem rangeChoice_eq (s : State) : s.rangeChoice = (allSlots.filter fun i =>
    decide ((s.ctx i).life = .recovery ∧ (s.ctx i).rangeRepeat = 0)).take 4 := by
  simp only [State.rangeChoice, Bool.decide_and]

/-- The refresh pointer moves past the last context of the third tier (R66). -/
theorem refreshAfter_concat (third : List Slot) (i p : Slot) : refreshAfter (third ++ [i]) p = i + 1 := by
  simp only [refreshAfter, List.getLast?_concat]

/-- Settles O36: each part of the choice is the first of its tier's pool, and a context left out of its pool's part shows
that the tiers so far fill all K entries. -/
theorem entryChoice : Obligations.EntryChoice := by
  refine ⟨?_, fun p => rfl, refreshAfter_concat,
    fun c h => ⟨firstTier_iff c, secondTier_iff c h, thirdTier_iff c h⟩⟩
  intro s k h chosen third
  refine ⟨rangeChoice_eq s, chosen_length_le s, chosen_nodup s, fun i => sound_of_chosen, s.firstChosen,
    s.secondChosen, chosen_eq s, List.take_prefix _ _, fun i hi => ?_, fun i hi => ?_,
    (secondPool_keyOrder s).sublist (List.take_sublist _ _), ?_, fun j hout hj => ?_, fun j hout hj => ?_,
    fun hfew j => no_tier_of_few_chosen hfew⟩
  · exact ⟨(mem_secondPool_of_chosen hi).1, not_firstTier_of_secondChosen hi⟩
  · exact ⟨(mem_thirdPool_of_chosen hi).1, not_higher_tier_of_third hi⟩
  · rw [← thirdPool_eq]
    exact List.take_prefix _ _
  · obtain ⟨hfirst, -, -⟩ := not_mem_chosen hout
    exact lower_tiers_eq_nil_of_first_left hj hfirst
  · obtain ⟨hfirst, hsecond, -⟩ := not_mem_chosen hout
    exact ⟨third_eq_nil_of_second_left hj hfirst hsecond, fun i hi => keyOrder_of_second_left hi hj hfirst hsecond⟩

end Sys2Proof.Machine
end

section
/-! Band claims among sector stations: CLAIM and BAND RELEASE read back, discarded (R87), a CLAIM weighed against the
neighbour entry (R75, R90), a BAND RELEASE at the entry (R91). -/
namespace Sys2Proof.Machine

/-! ### The payloads of CLAIM and BAND RELEASE (R162), and the band they name (R87) -/

theorem readClaim_bytesOf {n : Nat} (hn : n < 8) (a : Interval) :
    readClaim (bytesOf 2 (n * 8192 + a.val)) = some { band := n, interval := a } := by
  have ha := a.isLt
  have hword : wordOf (bytesOf 2 (n * 8192 + a.val)) = n * 8192 + a.val := by rw [wordOf_bytesOf]; omega
  have hband : bits (n * 8192 + a.val) 15 13 = n := by rw [bits_eq]; omega
  have hinterval : bits (n * 8192 + a.val) 11 0 = a.val := by rw [bits_eq]; omega
  simp [readClaim, hword, hband, hinterval]

theorem readBandRelease_bytesOf {n : Nat} (hn : n < 8) : readBandRelease (bytesOf 1 (n * 32)) = some n := by
  have hword : wordOf (bytesOf 1 (n * 32)) = n * 32 := by rw [wordOf_bytesOf]; omega
  have hband : bits (n * 32) 7 5 = n := by rw [bits_eq]; omega
  simp [readBandRelease, hword, hband]

theorem claimPayload_eq (b : Band) (a : Interval) : claimPayload b a = bytesOf 2 (b.val * 8192 + a.val) := by
  have hb := b.isLt
  have ha := a.isLt
  have hword : field b.val 3 13 + field a.val 12 0 = b.val * 8192 + a.val := by simp only [field_eq]; omega
  rw [claimPayload, hword]

theorem bandReleasePayload_eq (b : Band) : bandReleasePayload b = bytesOf 1 (b.val * 32) := by
  have hb := b.isLt
  have hword : field b.val 3 5 = b.val * 32 := by rw [field_eq]; omega
  rw [bandReleasePayload, hword]

/-- A CLAIM is read as it was sent. -/
theorem readClaim_claimPayload (b : Band) (a : Interval) :
    readClaim (claimPayload b a) = some { band := b.val, interval := a } := by
  rw [claimPayload_eq, readClaim_bytesOf (by omega)]

/-- A BAND RELEASE is read as it was sent. -/
theorem readBandRelease_bandReleasePayload (b : Band) : readBandRelease (bandReleasePayload b) = some b.val := by
  rw [bandReleasePayload_eq, readBandRelease_bytesOf (by omega)]

@[simp] theorem bandField_val (b : Band) : bandField b.val = some b := by simp [bandField]

theorem bandField_eq_none {n : Nat} (h : 6 ≤ n) : bandField n = none := dif_neg (by omega)

/-! ### What is taken and what is discarded (R87) -/

section
variable {t : RxTelegram} {s : State}

theorem takeClaim_of_band {b : Band} {a : Interval} (hread : readClaim t.payload = some { band := b.val, interval := a })
    (hsource : t.source ≠ s.ownStation) : takeClaim t s = hearClaim t.source b a s := by
  rw [takeClaim, onPayload_of_read hread]
  simp [hsource]

theorem takeBandRelease_of_band {b : Band} (hread : readBandRelease t.payload = some b.val)
    (hsource : t.source ≠ s.ownStation) : takeBandRelease t s = hearRelease t.source b s := by
  rw [takeBandRelease, onPayload_of_read hread]
  simp [hsource]

/-- A CLAIM from the own number is discarded, whatever it reads as. -/
theorem takeClaim_of_own (hsource : t.source = s.ownStation) : takeClaim t s = s := by
  cases hread : readClaim t.payload with
  | none => simp only [takeClaim, onPayload, hread]
  | some c =>
    rw [takeClaim, onPayload_of_read hread]
    cases bandField c.band with
    | none => rfl
    | some b => exact if_pos hsource

/-- A BAND RELEASE from the own number is discarded, whatever it reads as. -/
theorem takeBandRelease_of_own (hsource : t.source = s.ownStation) : takeBandRelease t s = s := by
  cases hread : readBandRelease t.payload with
  | none => simp only [takeBandRelease, onPayload, hread]
  | some n =>
    rw [takeBandRelease, onPayload_of_read hread]
    cases bandField n with
    | none => rfl
    | some b => exact if_pos hsource

theorem takeClaim_of_no_band {c : ClaimTelegram} (hread : readClaim t.payload = some c)
    (hband : bandField c.band = none) : takeClaim t s = s := by
  rw [takeClaim, onPayload_of_read hread, hband]

theorem takeBandRelease_of_no_band {n : Nat} (hread : readBandRelease t.payload = some n)
    (hband : bandField n = none) : takeBandRelease t s = s := by
  rw [takeBandRelease, onPayload_of_read hread, hband]

end

/-! ### A CLAIM on a band not claimed (R90) -/

theorem hearClaim_of_unclaimed {s : State} {b : Band} (source : Station) (a : Interval)
    (h : (s.own b).claimed = false) :
    hearClaim source b a s = recordPeer b { station := source, interval := a, age := 0 } s := by
  simp [hearClaim, h]

section
variable {s : State} {b : Band} {peer e : PeerEntry}

theorem recordPeer_of_no_entry (h : s.neighbour b = none) : recordPeer b peer s = s.putNeighbour b (some peer) := by
  simp only [recordPeer, h]

/-- A repeated CLAIM of the recorded station takes the entry's place. -/
theorem recordPeer_of_same (h : s.neighbour b = some e) (hsame : e.station = peer.station) :
    recordPeer b peer s = s.putNeighbour b (some peer) := by
  simp only [recordPeer, h, hsame, true_or, if_true]

theorem recordPeer_of_win (h : s.neighbour b = some e)
    (hwin : winsClaim peer.interval e.interval peer.station e.station = true) :
    recordPeer b peer s = s.putNeighbour b (some peer) := by
  simp only [recordPeer, h, hwin, or_true, if_true]

theorem recordPeer_of_loss (h : s.neighbour b = some e) (hother : e.station ≠ peer.station)
    (hloss : winsClaim peer.interval e.interval peer.station e.station = false) : recordPeer b peer s = s := by
  simp [recordPeer, h, hother, hloss]

/-! ### A BAND RELEASE at the entry (R91) -/

theorem hearRelease_of_sender {source : Station} (h : s.neighbour b = some e) (hsender : e.station = source)
    (hfree : (s.own b).claimed = false) : hearRelease source b s = s.putNeighbour b none := by
  simp only [hearRelease, h, hsender, hfree, and_self, if_true]

theorem hearRelease_of_other {source : Station} (h : ∀ e, s.neighbour b = some e → e.station ≠ source) :
    hearRelease source b s = s := by
  unfold hearRelease
  split
  next => rfl
  next e he => exact if_neg fun hsender => h e he hsender.1

end

/-! ### The rows CLAIM and BAND_RELEASE -/

section
variable {s : State} {source : Station} {p : List Byte} {b : Band} {a : Interval} {rest : List RxTelegram}

theorem exec_claim_of_hasHead (h : s.hasHead .claim source p rest) :
    exec .claim s = .next (takeClaim { kind := .claim, source := source, payload := p } (s.setRxBuffer rest)) :=
  congrArg Host.Outcome.next (takeHead_of_hasHead h (isKind_self _ _ _))

theorem exec_bandRelease_of_hasHead (h : s.hasHead .bandRelease source p rest) :
    exec .bandRelease s =
      .next (takeBandRelease { kind := .bandRelease, source := source, payload := p } (s.setRxBuffer rest)) :=
  congrArg Host.Outcome.next (takeHead_of_hasHead h (isKind_self _ _ _))

theorem exec_claim_of_band (h : s.hasHead .claim source (claimPayload b a) rest) (hsource : source ≠ s.ownStation) :
    exec .claim s = .next (hearClaim source b a (s.setRxBuffer rest)) := by
  rw [exec_claim_of_hasHead h, takeClaim_of_band (readClaim_claimPayload b a) hsource]

theorem exec_bandRelease_of_band (h : s.hasHead .bandRelease source (bandReleasePayload b) rest)
    (hsource : source ≠ s.ownStation) :
    exec .bandRelease s = .next (hearRelease source b (s.setRxBuffer rest)) := by
  rw [exec_bandRelease_of_hasHead h, takeBandRelease_of_band (readBandRelease_bandReleasePayload b) hsource]

theorem exec_claim_of_own (h : s.hasHead .claim s.ownStation p rest) :
    exec .claim s = .next (s.setRxBuffer rest) := by
  rw [exec_claim_of_hasHead h, takeClaim_of_own rfl]

theorem exec_bandRelease_of_own (h : s.hasHead .bandRelease s.ownStation p rest) :
    exec .bandRelease s = .next (s.setRxBuffer rest) := by
  rw [exec_bandRelease_of_hasHead h, takeBandRelease_of_own rfl]

theorem exec_claim_of_no_band {n : Nat} (h6 : 6 ≤ n) (h7 : n ≤ 7)
    (h : s.hasHead .claim source (bytesOf 2 (n * 8192 + a.val)) rest) :
    exec .claim s = .next (s.setRxBuffer rest) := by
  rw [exec_claim_of_hasHead h, takeClaim_of_no_band (readClaim_bytesOf (by omega) a) (bandField_eq_none h6)]

theorem exec_bandRelease_of_no_band {n : Nat} (h6 : 6 ≤ n) (h7 : n ≤ 7)
    (h : s.hasHead .bandRelease source (bytesOf 1 (n * 32)) rest) :
    exec .bandRelease s = .next (s.setRxBuffer rest) := by
  rw [exec_bandRelease_of_hasHead h,
    takeBandRelease_of_no_band (readBandRelease_bytesOf (by omega)) (bandField_eq_none h6)]

end

/-- Settles O29: a CLAIM that is not discarded comes to `recordPeer`, a BAND RELEASE to `hearRelease`, and one rule of
each decides each case of the entry. -/
theorem heardClaimsAndReleases : Obligations.HeardClaimsAndReleases := by
  intro s source b a rest u peer
  refine ⟨fun h hsource hfree => ?_, fun h hsource => ?_, exec_claim_of_own, exec_bandRelease_of_own,
    fun n h6 h7 => ⟨exec_claim_of_no_band h6 h7, exec_bandRelease_of_no_band h6 h7⟩⟩
  · have hexec : exec .claim s = .next (recordPeer b peer u) :=
      (exec_claim_of_band h hsource).trans (congrArg Host.Outcome.next (hearClaim_of_unclaimed source a hfree))
    rw [hexec]
    refine ⟨fun hnone => ?_, fun e he hsame => ?_, fun e he _ hwin => ?_, fun e he hother hloss => ?_⟩
    · exact congrArg Host.Outcome.next (recordPeer_of_no_entry hnone)
    · exact congrArg Host.Outcome.next (recordPeer_of_same he hsame)
    · exact congrArg Host.Outcome.next (recordPeer_of_win he hwin)
    · exact congrArg Host.Outcome.next (recordPeer_of_loss he hother hloss)
  · have hexec : exec .bandRelease s = .next (hearRelease source b u) := exec_bandRelease_of_band h hsource
    rw [hexec]
    refine ⟨fun e he hsender hfree => ?_, fun hother => ?_⟩
    · exact congrArg Host.Outcome.next (hearRelease_of_sender he hsender hfree)
    · exact congrArg Host.Outcome.next (hearRelease_of_other hother)

end Sys2Proof.Machine
end

section
/-! Ranking arithmetic: rounding of a quotient in the four modes (R99), the metric (R101 to R103) and the average
update (R107, R110). -/
namespace Sys2Proof.Machine

/-! ### A rounded quotient (R99): the floor of the exact one, or the integer above it -/

section
variable (m : Rounding) {n k : Int} {d : Nat}

theorem roundQuotient_of_emod_eq_zero (hd : 0 < d) (h : n % d = 0) : roundQuotient m n d = n / d := by
  cases m <;> simp [roundQuotient, h, hd]

/-- The three answers of NEAREST, by the side of the half on which the remainder lies. -/
theorem roundQuotient_nearest_cases (n : Int) (d : Nat) :
    (2 * (n % d) ≤ d ∧ roundQuotient .nearest n d = n / d ∧ (2 * (n % d) = d → n / d % 2 = 0)) ∨
    (d ≤ 2 * (n % d) ∧ roundQuotient .nearest n d = n / d + 1 ∧ (2 * (n % d) = d → (n / d + 1) % 2 = 0)) := by
  simp only [roundQuotient]
  split_ifs <;> omega

theorem roundQuotient_eq_or (n : Int) (d : Nat) :
    roundQuotient m n d = n / d ∨ roundQuotient m n d = n / d + 1 := by
  cases m with
  | down => exact .inl rfl
  | up | towardZero => exact ite_eq_or_eq ..
  | nearest => exact (roundQuotient_nearest_cases n d).imp (fun ⟨_, heq, _⟩ => heq) fun ⟨_, heq, _⟩ => heq

theorem roundQuotient_up_of_emod_ne_zero (h : n % d ≠ 0) : roundQuotient .up n d = n / d + 1 := if_neg h

theorem roundQuotient_towardZero_of_nonneg (hn : 0 ≤ n) :
    roundQuotient .towardZero n d = roundQuotient .down n d := if_pos (.inr hn)

theorem roundQuotient_towardZero_of_nonpos (hn : n ≤ 0) :
    roundQuotient .towardZero n d = roundQuotient .up n d := by
  rcases hn.eq_or_lt with rfl | hneg
  · simp [roundQuotient]
  · simp [roundQuotient, Int.not_le.mpr hneg]

/-- What the floor leaves of the dividend is the remainder. -/
theorem sub_ediv_mul_self (n : Int) (d : Nat) : n - n / d * d = n % d := by
  rw [Int.emod_def, Int.mul_comm]

/-- What the integer above the floor leaves of the dividend. -/
theorem sub_ediv_add_one_mul_self (n : Int) (d : Nat) : n - (n / d + 1) * d = n % d - d := by
  rw [Int.add_mul, Int.one_mul, ← sub_ediv_mul_self]; omega

theorem roundQuotient_down_bounds (n : Int) (hd : 0 < d) :
    roundQuotient .down n d * d ≤ n ∧ n < (roundQuotient .down n d + 1) * d :=
  ⟨Int.ediv_mul_le n (by omega), Int.lt_ediv_add_one_mul_self n (by omega)⟩

theorem roundQuotient_up_bounds (n : Int) (hd : 0 < d) :
    (roundQuotient .up n d - 1) * d < n ∧ n ≤ roundQuotient .up n d * d := by
  have hrest := sub_ediv_mul_self n d
  by_cases h : n % d = 0
  · rw [roundQuotient_of_emod_eq_zero .up hd h, Int.sub_mul]
    omega
  · rw [roundQuotient_up_of_emod_ne_zero h, Int.add_sub_cancel]
    have hpos := Int.emod_nonneg n (b := d) (by omega)
    exact ⟨by omega, (Int.lt_ediv_add_one_mul_self n (by omega)).le⟩

/-- NEAREST is at most half the divisor away, and at exactly half it is even. -/
theorem roundQuotient_nearest_close (n : Int) (hd : 0 < d) :
    (2 * (n - roundQuotient .nearest n d * d)).natAbs ≤ d ∧
    ((2 * (n - roundQuotient .nearest n d * d)).natAbs = d → roundQuotient .nearest n d % 2 = 0) := by
  have hnonneg := Int.emod_nonneg n (b := d) (by omega)
  have hlt := Int.emod_lt_of_pos n (b := d) (by omega)
  obtain ⟨hside, heq, heven⟩ | ⟨hside, heq, heven⟩ := roundQuotient_nearest_cases n d
  · rw [heq, sub_ediv_mul_self]
    omega
  · rw [heq, sub_ediv_add_one_mul_self]
    omega

/-! ### An integer bound of the exact quotient bounds the rounded one -/

theorem le_roundQuotient (hd : 0 < d) (h : k * d ≤ n) : k ≤ roundQuotient m n d := by
  have hfloor : k ≤ n / d := (Int.le_ediv_iff_mul_le (by omega)).mpr h
  obtain heq | heq := roundQuotient_eq_or m n d <;> omega

theorem roundQuotient_le (hd : 0 < d) (h : n ≤ k * d) : roundQuotient m n d ≤ k := by
  have hfloor : n / d ≤ k := Int.ediv_le_of_le_mul (by omega) h
  by_cases hrest : n % d = 0
  · rwa [roundQuotient_of_emod_eq_zero m hd hrest]
  · have hne : n / d ≠ k := by
      rintro rfl
      have hnonneg := Int.emod_nonneg n (b := d) (by omega)
      have := sub_ediv_mul_self n d
      omega
    obtain heq | heq := roundQuotient_eq_or m n d <;> omega

theorem roundQuotient_mem_of_nonneg (hd : 0 < d) (hn : 0 ≤ n) :
    0 ≤ roundQuotient m n d ∧ roundQuotient m n d ≤ n :=
  ⟨le_roundQuotient m hd (by simpa using hn), roundQuotient_le m hd (le_mul_of_one_le_right hn (by omega))⟩

theorem roundQuotient_mem_of_nonpos (hd : 0 < d) (hn : n ≤ 0) :
    n ≤ roundQuotient m n d ∧ roundQuotient m n d ≤ 0 :=
  ⟨le_roundQuotient m hd (mul_le_of_one_le_right hn (by omega)), roundQuotient_le m hd (by simpa using hn)⟩

end

/-! ### The metric (R101 to R103) -/

section
variable (m : Rounding) (e : Nat) (cls : ServiceClass)

theorem metric_of_average_eq_zero : metric m e cls 0 = (16777215, some .divzero) := rfl

/-- The tests are made on the rounded result (R103). -/
theorem metric_of_average_pos {a : Nat} (ha : 0 < a) :
    let v := (roundQuotient m (e * 2 ^ (20 + cls.val)) a).toNat
    metric m e cls a = if 16777215 < v then (16777215, some .overflow)
      else (v, if v = 0 then some .underflow else none) := by
  intro v
  rw [metric, if_neg ha.ne']
  refine if_congr Iff.rfl rfl ?_
  split_ifs with hzero
  · exact congrArg (·, some Condition.underflow) hzero.symm
  · rfl

theorem metric_le (a : Nat) : (metric m e cls a).1 ≤ 16777215 := by
  obtain rfl | ha := a.eq_zero_or_pos
  · exact le_rfl
  · rw [metric_of_average_pos m e cls ha]
    split
    · exact le_rfl
    · exact Nat.le_of_not_lt ‹_›

end

/-! ### The average update (R107, R110) -/

section
variable (m : Rounding) (w a delivered : Nat)

theorem averageUpdate_le : averageUpdate m w a delivered ≤ 16777215 := Nat.min_le_left ..

theorem averageUpdate_eq_clamp : (averageUpdate m w a delivered : Int) =
    max 0 (min 16777215 (a + roundQuotient m (256 * (delivered : Int) - a) (2 ^ w))) := by
  simp only [averageUpdate, metricMax]
  omega

/-- The step does not pass the delivered rate: the new average lies between the old one and `256 * delivered`. -/
theorem average_add_step_between : let v := a + roundQuotient m (256 * (delivered : Int) - a) (2 ^ w)
    min (a : Int) (256 * delivered) ≤ v ∧ v ≤ max (a : Int) (256 * delivered) := by
  have hd : 0 < 2 ^ w := Nat.two_pow_pos w
  obtain hn | hn := le_total 0 (256 * (delivered : Int) - a)
  · have := roundQuotient_mem_of_nonneg m hd hn
    omega
  · have := roundQuotient_mem_of_nonpos m hd hn
    omega

variable {a delivered}

theorem averageUpdate_eq_add_step (ha : a ≤ 16777215) (hdelivered : delivered ≤ 4095) :
    (averageUpdate m w a delivered : Int) = a + roundQuotient m (256 * (delivered : Int) - a) (2 ^ w) := by
  have hbetween := average_add_step_between m w a delivered
  rw [averageUpdate_eq_clamp]
  omega

end

/-- Settles O41: the rounding modes one by one; the metric by its tests in order; the average update needs no clamp
because its step does not pass the delivered rate. -/
theorem metricAndAverage : Obligations.MetricAndAverage := by
  refine ⟨fun n d hd => ⟨roundQuotient_down_bounds n hd, roundQuotient_up_bounds n hd,
      roundQuotient_towardZero_of_nonneg, roundQuotient_towardZero_of_nonpos, roundQuotient_nearest_close n hd⟩,
    fun m q cls a _ => ⟨?_, metric_of_average_pos m (efficiency q) cls, metric_le m (efficiency q) cls a⟩,
    fun m w a delivered => ⟨averageUpdate_le m w a delivered, averageUpdate_eq_clamp m w a delivered,
      fun _ _ => averageUpdate_eq_add_step m w⟩⟩
  rintro rfl
  exact metric_of_average_eq_zero m (efficiency q) cls

end Sys2Proof.Machine
end

section
/-! USAGE at the open interval (R142): what its entries write into the records, and its last flag (R143). -/
namespace Sys2Proof.Machine

/-! ### One entry and one record -/

/-- The record with a usage figure taken, held to its granted bits, if it belongs to the interval and direction and is
no orphan (R142). -/
def Record.deliver (t : Interval) (d : Direction) (n : Nat) (r : Record) : Record :=
  if r.interval = t ∧ r.dir = d ∧ r.orphan = false then { r with delivered := some (min n r.granted) } else r

@[simp] theorem Record.deliver_tag (t : Interval) (d : Direction) (n : Nat) (r : Record) :
    (r.deliver t d n).tag = r.tag := by
  unfold Record.deliver
  split <;> rfl

/-- Of two figures for one record the later one counts. -/
theorem Record.deliver_deliver (t : Interval) (d : Direction) (m n : Nat) (r : Record) :
    (r.deliver t d m).deliver t d n = r.deliver t d n := by
  by_cases h : r.interval = t ∧ r.dir = d ∧ r.orphan = false
  · simp only [Record.deliver, h, and_self, if_true]
  · simp only [Record.deliver, h, if_false]

theorem applyUsage_eq (t : Interval) (d : Direction) (s : State) (e : Tag × Nat) :
    applyUsage t d s e = s.setRecords (s.records.map fun r => if e.1 = r.tag then r.deliver t d e.2 else r) := by
  refine congrArg s.setRecords (List.map_congr_left fun r _ => ?_)
  by_cases htag : e.1 = r.tag
  · simp only [Record.deliver, Record.inClose, Bool.and_eq_true, decide_eq_true_eq, htag, true_and, and_assoc, if_true]
  · simp only [Ne.symm htag, htag, false_and, and_false, if_false]

/-! ### All entries of a USAGE: the last one that names the record's tag counts -/

/-- The record after the entries of a USAGE for interval `t` and direction `d`. -/
def Record.afterUsage (t : Interval) (d : Direction) (es : List (Tag × Nat)) (r : Record) : Record :=
  match es.reverse.find? fun e => decide (e.1 = r.tag) with
  | some e => r.deliver t d e.2
  | none => r

theorem Record.afterUsage_nil (t : Interval) (d : Direction) (r : Record) : r.afterUsage t d [] = r := rfl

theorem Record.afterUsage_concat (t : Interval) (d : Direction) (es : List (Tag × Nat)) (e : Tag × Nat) (r : Record) :
    r.afterUsage t d (es ++ [e]) = if e.1 = r.tag then r.deliver t d e.2 else r.afterUsage t d es := by
  by_cases htag : e.1 = r.tag
  · simp only [Record.afterUsage, List.reverse_concat, List.find?_cons, htag, decide_true, if_true]
  · simp only [Record.afterUsage, List.reverse_concat, List.find?_cons, htag, decide_false, if_false]

@[simp] theorem Record.afterUsage_tag (t : Interval) (d : Direction) (es : List (Tag × Nat)) (r : Record) :
    (r.afterUsage t d es).tag = r.tag := by
  unfold Record.afterUsage
  split
  · exact r.deliver_tag t d _
  · rfl

theorem Record.deliver_afterUsage (t : Interval) (d : Direction) (es : List (Tag × Nat)) (n : Nat) (r : Record) :
    (r.afterUsage t d es).deliver t d n = r.deliver t d n := by
  unfold Record.afterUsage
  split
  · exact r.deliver_deliver t d _ n
  · rfl

theorem foldl_applyUsage (t : Interval) (d : Direction) (es : List (Tag × Nat)) (s : State) :
    es.foldl (applyUsage t d) s = s.setRecords (s.records.map (Record.afterUsage t d es)) := by
  induction es using List.reverseRecOn with
  | nil => exact congrArg s.setRecords (List.map_id s.records).symm
  | append_singleton es e ih =>
    rw [List.foldl_concat, ih, applyUsage_eq, setRecords_records, List.map_map]
    refine congrArg s.setRecords (List.map_congr_left fun r _ => ?_)
    rw [Function.comp_apply, Record.afterUsage_tag, Record.deliver_afterUsage, Record.afterUsage_concat]

/-! ### The row USAGE -/

section
variable {s : State} {u : UsageReport}

theorem takeUsage_of_not_open (h : s.isOpen u.interval u.dir = false) : takeUsage u s = s := by
  simp only [takeUsage, h, Bool.false_eq_true, if_false]

theorem takeUsage_of_open (h : s.isOpen u.interval u.dir = true) (hlast : u.last = false) :
    takeUsage u s = s.setRecords (s.records.map (Record.afterUsage u.interval u.dir u.entries)) := by
  simp only [takeUsage, h, hlast, Bool.false_eq_true, if_true, if_false, foldl_applyUsage]

theorem takeUsage_of_last (h : s.isOpen u.interval u.dir = true) (hlast : u.last = true) :
    takeUsage u s = closeInterval u.interval u.dir .last
      (s.setRecords (s.records.map (Record.afterUsage u.interval u.dir u.entries))) := by
  simp only [takeUsage, h, hlast, if_true, foldl_applyUsage]

end

theorem exec_usage_of_hasHead {s : State} {source : Station} {p : List Byte} {u : UsageReport} {rest : List RxTelegram}
    (h : s.hasHead .usage source p rest) (hread : readUsage p = some u) :
    exec .usage s = .next (takeUsage u (s.setRxBuffer rest)) :=
  congrArg Host.Outcome.next (takeHead_onPayload h hread)

/-- Settles O22: the entries taken one after the other leave `Record.afterUsage` of each record; the open list and the last
flag decide between the cases. -/
theorem usageApplied : Obligations.UsageApplied := by
  intro s source p u rest h hread v reported
  have hreported : v.setRecords (v.records.map (Record.afterUsage u.interval u.dir u.entries)) = reported := rfl
  rw [exec_usage_of_hasHead h hread]
  refine ⟨fun hclosed => ?_, fun hopen hlast => ?_, fun hopen hlast => ?_⟩
  · exact congrArg Host.Outcome.next (takeUsage_of_not_open (s := v) hclosed)
  · exact congrArg Host.Outcome.next ((takeUsage_of_open (s := v) hopen hlast).trans hreported)
  · rw [← hreported]
    exact congrArg Host.Outcome.next (takeUsage_of_last (s := v) hopen hlast)

end Sys2Proof.Machine
end

section
/-! Offering a telegram to the transmit queue (R157, R158): the victim a full queue gives up, and the three outcomes of an
offer. -/
namespace Sys2Proof.Machine

/-! ### Taking the last element that satisfies a test -/

section
variable {α : Type} {p : α → Bool}

theorem takeLast_eq_none {l : List α} (h : ∀ y ∈ l, p y = false) : takeLast p l = none := by
  induction l with
  | nil => rfl
  | cons x xs ih =>
    obtain ⟨hx, hxs⟩ := List.forall_mem_cons.mp h
    simp [takeLast, ih hxs, hx]

theorem takeLast_append_cons (before : List α) {v : α} {after : List α} (hv : p v = true)
    (hafter : ∀ y ∈ after, p y = false) : takeLast p (before ++ v :: after) = some (v, before ++ after) := by
  induction before with
  | nil => simp [takeLast, takeLast_eq_none hafter, hv]
  | cons x xs ih => simp [takeLast, ih]

end

/-! ### The class a newcomer evicts from -/

section
variable {c n : Nat} {q : List TxTelegram}

theorem victimClass_le (h : ∀ y ∈ q, y.onWire = true ∨ y.kind.priority ≤ n) : victimClass c q ≤ n := by
  induction q with
  | nil => exact Nat.zero_le n
  | cons x xs ih =>
    obtain ⟨hx, hxs⟩ := List.forall_mem_cons.mp h
    rw [victimClass, List.foldr_cons]
    split
    · next hwaits => exact max_le (hx.resolve_left fun hwire => by simp [hwire] at hwaits) (ih hxs)
    · exact ih hxs

theorem le_victimClass {v : TxTelegram} (hv : v ∈ q) (hwire : v.onWire = false) (hlower : c < v.kind.priority) :
    v.kind.priority ≤ victimClass c q := by
  induction q with
  | nil => cases hv
  | cons x xs ih =>
    rw [victimClass, List.foldr_cons]
    rcases List.mem_cons.mp hv with rfl | hxs
    · rw [if_pos (by simp [hwire, hlower])]
      exact le_max_left _ _
    · split
      · exact (ih hxs).trans (le_max_right _ _)
      · exact ih hxs

/-- The class of an evictable telegram is the one evicted from if none that waits is of a lower one. -/
theorem victimClass_eq {v : TxTelegram} (hv : v ∈ q) (hwire : v.onWire = false) (hlower : c < v.kind.priority)
    (hlowest : ∀ y ∈ q, y.onWire = true ∨ y.kind.priority ≤ v.kind.priority) : victimClass c q = v.kind.priority :=
  le_antisymm (victimClass_le hlowest) (le_victimClass hv hwire hlower)

end

/-! ### The outcomes of an offer to a full queue -/

section
variable {x : TxTelegram}

theorem admitToQueue_of_no_victim {q : List TxTelegram} (hfull : 24 ≤ q.length)
    (hnone : ∀ y ∈ q, y.onWire = true ∨ y.kind.priority ≤ x.kind.priority) : admitToQueue q x = .refused := by
  rw [admitToQueue, if_neg hfull.not_gt, takeLast_eq_none fun y hy => ?_]
  rcases hnone y hy with hwire | hclass
  · simp [hwire]
  · simp [hclass.not_gt]

theorem admitToQueue_of_victim {before after : List TxTelegram} {v : TxTelegram}
    (hfull : 24 ≤ (before ++ v :: after).length) (hwire : v.onWire = false) (hlower : x.kind.priority < v.kind.priority)
    (hbefore : ∀ y ∈ before, y.onWire = true ∨ y.kind.priority ≤ v.kind.priority)
    (hafter : ∀ y ∈ after, y.onWire = true ∨ y.kind.priority < v.kind.priority) :
    admitToQueue (before ++ v :: after) x = .evicted (before ++ after ++ [x]) v := by
  have hclass : victimClass x.kind.priority (before ++ v :: after) = v.kind.priority :=
    victimClass_eq (by simp) hwire hlower <| List.forall_mem_append.mpr ⟨hbefore, List.forall_mem_cons.mpr
      ⟨.inr le_rfl, fun y hy => (hafter y hy).imp_right le_of_lt⟩⟩
  rw [admitToQueue, if_neg hfull.not_gt, hclass, takeLast_append_cons before (by simp [hwire, hlower]) fun y hy => ?_]
  rcases hafter y hy with hy | hy
  · simp [hy]
  · simp [hy.ne]

theorem offer_of_refused {s : State} (ha : s.acting = true) (h : admitToQueue s.txQueue x = .refused) :
    offer x s = reportDropped x.owner (raise .txFail s) := by
  simp only [offer, ha, h, if_true]

theorem offer_of_evicted {s : State} {q : List TxTelegram} {v : TxTelegram} (ha : s.acting = true)
    (h : admitToQueue s.txQueue x = .evicted q v) : offer x s = reportDropped v.owner (s.setTxQueue q) := by
  simp only [offer, ha, h, if_true]

end

/-- Settles O51: room decides the first outcome, and in a full queue the search for a victim decides between the others. -/
theorem offerAndEviction : Obligations.OfferAndEviction := by
  intro x s ha
  refine ⟨offer_room ha, fun hfull hnone => ?_, fun before after v hfull hq hwire hlower hbefore hafter => ?_⟩
  · exact offer_of_refused ha (admitToQueue_of_no_victim hfull hnone)
  · rw [hq] at hfull
    exact offer_of_evicted ha (hq ▸ admitToQueue_of_victim hfull hwire hlower hbefore hafter)

end Sys2Proof.Machine
end

section
/-! Management RETRAIN and CLEAR: a tag's context sent to RECOVERY (R24, R33), and the flags a mask clears with what is
left of ALERT_N (R169, R170). -/
namespace Sys2Proof.Machine

/-! ### RETRAIN -/

section
variable {g : Tag} {i : Slot} {s : State}

theorem retrainTag_of_serving (hslot : s.slotOf g = some i)
    (hlife : (s.ctx i).life = .active ∨ (s.ctx i).life = .dormant) :
    retrainTag g s = s.putCtx i (s.ctx i).enterRecovery := by
  rcases hlife with h | h <;> simp only [retrainTag, hslot, h]

theorem retrainTag_of_other (hslot : s.slotOf g = some i) (hactive : (s.ctx i).life ≠ .active)
    (hdormant : (s.ctx i).life ≠ .dormant) : retrainTag g s = s := by
  simp only [retrainTag, hslot]
  split
  · next h => exact absurd h hactive
  · next h => exact absurd h hdormant
  all_goals rfl

theorem retrainTag_of_invalid (hslot : s.slotOf g = none) : retrainTag g s = s := by
  simp only [retrainTag, hslot]

end

theorem exec_retrain_of_hasHead {s : State} {source : Station} {g : Tag} {rest : List RxTelegram}
    (h : s.hasHead .retrain source (bytesOf 1 g.val) rest) :
    exec .retrain s = .next (retrainTag g (s.setRxBuffer rest)) :=
  congrArg Host.Outcome.next (takeHead_onPayload h (readTag_bytesOf g))

/-! ### CLEAR -/

/-- A two-byte payload holds the mask it was written from. -/
theorem readClear_bytesOf (mask : BitVec 16) : readClear (bytesOf 2 mask.toNat) = some mask := by
  have hword : wordOf (bytesOf 2 mask.toNat) = mask.toNat := by rw [wordOf_bytesOf]; omega
  rw [readClear, bytesOf_length, if_pos rfl, hword, BitVec.ofNat_toNat, BitVec.setWidth_eq]

theorem exec_clear_of_hasHead {s : State} {source : Station} {mask : BitVec 16} {rest : List RxTelegram}
    (h : s.hasHead .clear source (bytesOf 2 mask.toNat) rest) :
    exec .clear s = .next (clearFlags mask (s.setRxBuffer rest)) :=
  congrArg Host.Outcome.next (takeHead_onPayload h (readClear_bytesOf mask))

theorem clearFlags_keeps (mask : BitVec 16) (s : State) : Keeps [.flags] s (clearFlags mask s) := setFlags_keeps s _

theorem clearFlags_flag (mask : BitVec 16) (s : State) (n : Nat) :
    (clearFlags mask s).flags.getLsbD n = (s.flags.getLsbD n && !mask.getLsbD n) := by
  rw [clearFlags, setFlags_flags, BitVec.getLsbD_and, BitVec.getLsbD_not]
  by_cases hn : n < 16
  · simp only [hn, decide_true, Bool.true_and]
  · simp only [BitVec.getLsbD_of_ge _ _ (not_lt.mp hn), Bool.false_and]

/-! ### ALERT_N (R169) -/

/-- Two words have a bit in common unless their conjunction is 0. -/
theorem and_ne_zero_iff {w : Nat} (x y : BitVec w) :
    x &&& y ≠ 0 ↔ ∃ n : Nat, x.getLsbD n = true ∧ y.getLsbD n = true := by
  constructor
  · contrapose!
    intro hnone
    refine BitVec.eq_of_getLsbD_eq fun n _ => ?_
    simpa using hnone n
  · rintro ⟨n, hx, hy⟩ hzero
    have hbit : (x &&& y).getLsbD n = true := by rw [BitVec.getLsbD_and, hx, hy, Bool.and_self]
    simp [hzero] at hbit

/-- HALTED is no state of a part that acts, so there ALERT_N follows the enabled flags alone. -/
theorem alertLow_iff_of_acting {s : State} (ha : s.acting = true) :
    s.alertLow = true ↔ ∃ n : Nat, s.flags.getLsbD n = true ∧ s.profile.alertMask.getLsbD n = true := by
  have hstation : s.station ≠ .halted := fun h => by simp [State.acting, h] at ha
  rw [State.alertLow, decide_eq_false hstation, Bool.false_or, decide_eq_true_iff, and_ne_zero_iff]

/-- Settles O33: the life of the tag's context decides between the cases of RETRAIN; CLEAR leaves the part acting, so
ALERT_N is what the flags left say. -/
theorem retrainAndClear : Obligations.RetrainAndClear := by
  refine fun s source rest => ⟨fun g h => ?_, fun mask h => ?_⟩
  · rw [exec_retrain_of_hasHead h]
    refine ⟨fun i hslot hlife => ?_, fun i hslot hactive hdormant => ?_, fun hslot => ?_⟩
    · exact congrArg Host.Outcome.next (retrainTag_of_serving (s := s.setRxBuffer rest) hslot hlife)
    · exact congrArg Host.Outcome.next (retrainTag_of_other (s := s.setRxBuffer rest) hslot hactive hdormant)
    · exact congrArg Host.Outcome.next (retrainTag_of_invalid (s := s.setRxBuffer rest) hslot)
  · have hkeeps : Keeps [.rxBuffer, .flags] s (clearFlags mask (s.setRxBuffer rest)) :=
      ((setRxBuffer_keeps s rest).mono (by decide)).andThen (clearFlags_keeps mask _) (by decide)
    have hacting : (clearFlags mask (s.setRxBuffer rest)).acting = true :=
      (hkeeps.acting (by decide)).trans h.1
    exact ⟨_, exec_clear_of_hasHead h, hkeeps, rfl, clearFlags_flag mask _, alertLow_iff_of_acting hacting⟩

end Sys2Proof.Machine
end

section
/-! A frame read at one field: what a state keeps of that field. -/
namespace Sys2Proof.Machine
namespace Keeps
variable {l : List Field} {s t : State} (h : Keeps l s t)
include h

theorem resetN_eq (hl : Field.resetN ∉ l) : t.resetN = s.resetN := h .resetN hl
theorem ownStation_eq (hl : Field.ownStation ∉ l) : t.ownStation = s.ownStation := h .ownStation hl
theorem profile_eq (hl : Field.profile ∉ l) : t.profile = s.profile := h .profile hl
theorem station_eq (hl : Field.station ∉ l) : t.station = s.station := h .station hl
theorem resume_eq (hl : Field.resume ∉ l) : t.resume = s.resume := h .resume hl
theorem listening_eq (hl : Field.listening ∉ l) : t.listening = s.listening := h .listening hl
theorem resetSeq_eq (hl : Field.resetSeq ∉ l) : t.resetSeq = s.resetSeq := h .resetSeq hl
theorem interval_eq (hl : Field.interval ∉ l) : t.interval = s.interval := h .interval hl
theorem synced_eq (hl : Field.synced ∉ l) : t.synced = s.synced := h .synced hl
theorem contexts_eq (hl : Field.contexts ∉ l) : t.contexts = s.contexts := h .contexts hl
theorem tags_eq (hl : Field.tags ∉ l) : t.tags = s.tags := h .tags hl
theorem tagPtr_eq (hl : Field.tagPtr ∉ l) : t.tagPtr = s.tagPtr := h .tagPtr hl
theorem refreshPtr_eq (hl : Field.refreshPtr ∉ l) : t.refreshPtr = s.refreshPtr := h .refreshPtr hl
theorem claims_eq (hl : Field.claims ∉ l) : t.claims = s.claims := h .claims hl
theorem farDemand_eq (hl : Field.farDemand ∉ l) : t.farDemand = s.farDemand := h .farDemand hl
theorem spacing_eq (hl : Field.spacing ∉ l) : t.spacing = s.spacing := h .spacing hl
theorem neighbours_eq (hl : Field.neighbours ∉ l) : t.neighbours = s.neighbours := h .neighbours hl
theorem cause_eq (hl : Field.cause ∉ l) : t.cause = s.cause := h .cause hl
theorem inFlight_eq (hl : Field.inFlight ∉ l) : t.inFlight = s.inFlight := h .inFlight hl
theorem flight_eq (hl : Field.flight ∉ l) : t.flight = s.flight := h .flight hl
theorem placementsDue_eq (hl : Field.placementsDue ∉ l) : t.placementsDue = s.placementsDue := h .placementsDue hl
theorem fallbackPtr_eq (hl : Field.fallbackPtr ∉ l) : t.fallbackPtr = s.fallbackPtr := h .fallbackPtr hl
theorem records_eq (hl : Field.records ∉ l) : t.records = s.records := h .records hl
theorem openIntervals_eq (hl : Field.openIntervals ∉ l) : t.openIntervals = s.openIntervals := h .openIntervals hl
theorem register_eq (hl : Field.register ∉ l) : t.register = s.register := h .register hl
theorem deadlinesDue_eq (hl : Field.deadlinesDue ∉ l) : t.deadlinesDue = s.deadlinesDue := h .deadlinesDue hl
theorem closesDue_eq (hl : Field.closesDue ∉ l) : t.closesDue = s.closesDue := h .closesDue hl
theorem txQueue_eq (hl : Field.txQueue ∉ l) : t.txQueue = s.txQueue := h .txQueue hl
theorem rxBuffer_eq (hl : Field.rxBuffer ∉ l) : t.rxBuffer = s.rxBuffer := h .rxBuffer hl
theorem flags_eq (hl : Field.flags ∉ l) : t.flags = s.flags := h .flags hl
theorem agenda_eq (hl : Field.agenda ∉ l) : t.agenda = s.agenda := h .agenda hl
theorem freeCount_eq (hl : Field.freeCount ∉ l) : t.freeCount = s.freeCount := h .freeCount hl
theorem pending_eq (hl : Field.pending ∉ l) : t.pending = s.pending := h .pending hl

theorem ctx_eq (hl : Field.contexts ∉ l) (i : Slot) : t.ctx i = s.ctx i := by
  simp only [State.ctx, h.contexts_eq hl]

theorem tagEntry_eq (hl : Field.tags ∉ l) (g : Tag) : t.tagEntry g = s.tagEntry g := by
  simp only [State.tagEntry, h.tags_eq hl]

theorem slotOf_eq (hl : Field.tags ∉ l) (g : Tag) : t.slotOf g = s.slotOf g := by
  simp only [State.slotOf, h.tagEntry_eq hl]

theorem own_eq (hl : Field.claims ∉ l) (b : Band) : t.own b = s.own b := by
  simp only [State.own, h.claims_eq hl]

theorem neighbour_eq (hl : Field.neighbours ∉ l) (b : Band) : t.neighbour b = s.neighbour b := by
  simp only [State.neighbour, h.neighbours_eq hl]

end Keeps
end Sys2Proof.Machine
end

section
/-! Laws of station and timer: `TimerLaw` lists what is to be shown of a law that reads no more than the timer's fields and
the placement in flight; then every command keeps it. -/
namespace Sys2Proof.Machine

/-- The fields a law of station, timer and placement in flight may read. -/
abbrev timing : List Field :=
  [.resetN, .ownStation, .profile, .station, .resume, .listening, .resetSeq, .interval, .synced, .flight,
   .placementsDue, .openIntervals, .closesDue]

/-- What is to be shown of a law that reads `timing` only: that it does (`frame`), and each part of the work that writes
one of those fields. -/
structure TimerLaw (P : State → Prop) : Prop where
  frame : ∀ {l : List Field} {s t : State}, Keeps l s t → (∀ f ∈ l, f ∉ timing) → s.acting = true → P s → P t
  hardwareReset : ∀ s, P (hardwareReset s)
  enterLoading : ∀ n s, s.acting = false → s = s.quiet → P s → P (enterLoading n s)
  loadProfile : ∀ im s, s.acting = false → s = s.quiet → P s → P (loadProfile im s)
  stationReset : ∀ s, s.acting = true → P s → P (stationReset s)
  endListening : ∀ s, s.acting = true → s.station = .listening → P s → P ((s.setListening 0).setStation .running)
  beginReset : ∀ s, s.acting = true → P s → P (s.setResetSeq (some 0))
  closes : ∀ s, s.acting = true → P s → P (settleCloses s)
  closeDue : ∀ t d s, s.acting = true → (t, d) ∈ s.closesDue → P s →
    P (timeoutClose t d (s.setClosesDue (s.closesDue.erase (t, d))))
  closeInterval : ∀ t d c s, s.acting = true → P s → P (closeInterval t d c s)
  pulse : ∀ s, s.acting = true → s.synced = true → s.closesDue = [] → P s →
    P (pulseEvent (s.setInterval (s.interval + 1)))
  mismatch : ∀ s, s.acting = true → s.synced = true → P s → P (pulseEvent ((timingFault s).setInterval 0))
  mark : ∀ s, s.acting = true → s.synced = false → P s → P (markEvent ((s.setInterval 0).setSynced true))
  loss : ∀ s, s.acting = true → s.synced = true → P s → P (suspend ((timingFault s).setSynced false))
  beginPlacement : ∀ t later s, s.acting = true → s.flight = none → s.placementsDue = t :: later → P s →
    P (beginPlacement t (s.setPlacementsDue later))
  engineMove : ∀ s t, s.acting = true → P s → (engineMove s).state = some t → P t
  completePlacement : ∀ s, s.acting = true → s.closesDue = [] → P s → P (completePlacement s)

/-- The end of a reset sequence takes the station reset or nothing. -/
theorem endSequence_cases (s : State) : endSequence s = s ∨ endSequence s = stationReset s := by
  unfold endSequence
  split
  · exact .inr rfl
  · exact .inl rfl

theorem endSequence_kept {P : State → Prop} {s : State} (hreset : P (stationReset s)) (hp : P s) :
    P (endSequence s) := by
  rcases endSequence_cases s with e | e <;> rw [e] <;> assumption

theorem retrainTag_keeps (g : Tag) (s : State) : Keeps [.contexts] s (retrainTag g s) := by
  unfold retrainTag
  split
  · split
    · exact putCtx_keeps s _ _
    · exact putCtx_keeps s _ _
    · exact Keeps.refl _ s
    · exact Keeps.refl _ s
    · exact Keeps.refl _ s
  · exact Keeps.refl _ s

namespace TimerLaw
variable {P : State → Prop} (h : TimerLaw P) {s : State} (ha : s.acting = true) (hp : P s)
include h ha hp

theorem endSequence {t : State} {l : List Field} (hk : Keeps l s t) (hl : ∀ f ∈ l, f ∉ timing) :
    P (endSequence t) := by
  have hstation : Field.station ∉ l := fun hm => hl _ hm (by decide)
  have hat : t.acting = true := (hk.acting hstation).trans ha
  have hpt : P t := h.frame hk hl ha hp
  exact endSequence_kept (h.stationReset t hat hpt) hpt

theorem perform (d : Due) : P (perform d s) := by
  cases d with
  | admissionHoldEnd i => exact h.frame (pulseSlot_keeps i s) (by decide) ha hp
  | silenceTimeout i => exact h.frame (pulseSlot_keeps i s) (by decide) ha hp
  | dormancy i => exact h.frame (pulseSlot_keeps i s) (by decide) ha hp
  | quarantineEnd g => exact h.frame (putTag_keeps s g _) (by decide) ha hp
  | soundPendingExpiry i => exact h.frame (putCtx_keeps s i _) (by decide) ha hp
  | bandHeld b => exact h.frame (holdBand_keeps b s) (by decide) ha hp
  | refreshClaim b => exact h.frame (refreshBand_keeps b s) (by decide) ha hp
  | settleEnd b => exact h.frame (settleBand_keeps b s) (by decide) ha hp
  | claimTransmitLimit b => exact h.frame (limitClaim_keeps b s) (by decide) ha hp
  | lastAssertExpiry b => exact h.frame (putOwn_keeps s b _) (by decide) ha hp
  | neighbourEntryExpiry b => exact h.frame (putNeighbour_keeps s b _) (by decide) ha hp
  | listeningEnd =>
    change P (Machine.endListening s)
    unfold Machine.endListening
    split
    · exact h.endListening s ha (by assumption) hp
    · exact hp
  | resetSequenceTimeout => exact h.stationReset s ha hp
  | idleRelease b => exact h.frame (releaseIdle_keeps b s) (by decide) ha hp
  | newClaim => exact h.frame (decideClaim_keeps s) (by decide) ha hp

theorem finishFrame : P (finishFrame s) := by
  unfold Machine.finishFrame
  split
  · exact hp
  · exact h.endSequence ha hp (((clearWire_keeps s).mono (l' := [.txQueue, .claims, .register]) (by decide)).andThen
      (reportSent_keeps _ _) (by decide)) (by decide)

theorem abandonFrame : P (abandonFrame s) := by
  unfold Machine.abandonFrame
  split
  · exact hp
  · split
    · exact h.endSequence ha hp (((clearWire_keeps s).mono (l' := offering) (by decide)).andThen
        (reportRemoved_keeps _ _) (by decide)) (by decide)
    · split
      · exact h.endSequence ha hp ((((clearWire_keeps s).mono (l' := offering) (by decide)).andThen
          (raise_keeps _ _) (by decide)).andThen (reportDropped_keeps _ _) (by decide)) (by decide)
      · exact h.frame (setTxQueue_keeps s _) (by decide) ha hp

theorem beginSequence : P (beginSequence s) := by
  unfold Machine.beginSequence
  split
  · exact hp
  · exact h.endSequence (s := s.setResetSeq (some 0)) ha (h.beginReset s ha hp)
      (Keeps.foldl sequenceRelease_keeps _ _) (by decide)

theorem takeUsage (u : UsageReport) : P (takeUsage u s) := by
  unfold Machine.takeUsage
  split
  · have applied : Keeps [.records] s (u.entries.foldl (applyUsage u.interval u.dir) s) :=
      Keeps.foldl (applyUsage_keeps u.interval u.dir) u.entries s
    have hpa := h.frame applied (by decide) ha hp
    dsimp only
    split
    · exact h.closeInterval _ _ _ _ ((applied.acting (by decide)).trans ha) hpa
    · exact hpa
  · exact hp

omit ha hp in
/-- Every command keeps such a law. -/
theorem preserved : Preserved P where
  hardwareReset := h.hardwareReset
  enterLoading := h.enterLoading
  loadProfile := h.loadProfile
  setAgenda v s ha hp := h.frame (setAgenda_keeps s v) (by decide) ha hp
  setDeadlinesDue v s ha hp := h.frame (setDeadlinesDue_keeps s v) (by decide) ha hp
  perform d _ ha hp := h.perform ha hp d
  closes := h.closes
  closeDue := h.closeDue
  deadline t s ha hp := h.frame (deadline_keeps t s) (by decide) ha hp
  pulse := h.pulse
  mismatch := h.mismatch
  mark := h.mark
  loss := h.loss
  beginPlacement := h.beginPlacement
  engineMove := h.engineMove
  completePlacement := h.completePlacement
  receive t s ha hp := h.frame (receive_keeps t s) (by decide) ha hp
  takeRx _ rest s ha _ hp := h.frame (setRxBuffer_keeps s rest) (by decide) ha hp
  beginWire s ha _ hp := h.frame (setTxQueue_keeps s _) (by decide) ha hp
  finishFrame _ ha hp := h.finishFrame ha hp
  abandonFrame _ ha hp := h.abandonFrame ha hp
  raise c s ha hp := h.frame (raise_keeps c s) (by decide) ha hp
  takeAttach a s ha hp := h.frame (takeAttach_keeps a s) (by decide) ha hp
  releaseContext i r s ha hp := h.frame (releaseContext_keeps i r s) (by decide) ha hp
  applyQuality r i s ha _ hp := h.frame (applyQuality_keeps r i s) (by decide) ha hp
  applyRange r i s ha _ hp := h.frame (applyRange_keeps r i s) (by decide) ha hp
  applyBuffer r i s ha _ hp := h.frame (applyBuffer_keeps r i s) (by decide) ha hp
  takeUsage u _ ha hp := h.takeUsage ha hp u
  hearClaim src b a s ha hp := h.frame (hearClaim_keeps src b a s) (by decide) ha hp
  hearRelease src b s ha hp := h.frame (hearRelease_keeps src b s) (by decide) ha hp
  takeAdmit src a s ha hp := h.frame (takeAdmit_keeps src a s) (by decide) ha hp
  offerStatus p s ha hp := h.frame (offer_keeps _ s) (by decide) ha hp
  setFreeCount v s ha hp := h.frame (setFreeCount_keeps s v) (by decide) ha hp
  retrainTag g s ha hp := h.frame (retrainTag_keeps g s) (by decide) ha hp
  clearFlags m s ha hp := h.frame (setFlags_keeps s _) (by decide) ha hp
  beginSequence _ ha hp := h.beginSequence ha hp

end TimerLaw

/-! ### The station law (R4, R7, R8, R174 to R178) -/

/-- While the part acts, its law reads four fields. -/
theorem stationLaw_of_keeps {l : List Field} {s t : State} (hk : Keeps l s t)
    (hl : ∀ f ∈ l, f ∉ [Field.resetN, .station, .resume, .synced]) (ha : s.acting = true) (hs : StationLaw s) :
    StationLaw t := by
  have hresetN := hk .resetN fun hm => hl _ hm (by decide)
  have hstation := hk .station fun hm => hl _ hm (by decide)
  have hresume := hk .resume fun hm => hl _ hm (by decide)
  have hsynced := hk .synced fun hm => hl _ hm (by decide)
  have hat : t.acting = true := (hk.acting fun hm => hl _ hm (by decide)).trans ha
  simp only [State.agree] at hresetN hstation hresume hsynced
  obtain ⟨hsync, hres, hrn, -⟩ := hs
  refine ⟨?_, ?_, ?_, fun hq => ?_⟩
  · rwa [hsynced, hstation]
  · rwa [hresume, hstation]
  · rwa [hresetN, hstation]
  · rw [hat] at hq; cases hq

/-- The law of an acting part, by its station state. -/
theorem stationLaw_of_acting {s : State} (ha : s.acting = true)
    (hsync : s.synced = true ↔ s.station = .listening ∨ s.station = .running)
    (hres : s.resume ≠ none ↔ s.station = .suspended) (hrn : s.resetN = false → s.station = .loading) :
    StationLaw s :=
  ⟨hsync, hres, hrn, fun hq => by rw [ha] at hq; cases hq⟩

theorem StationLaw.resetN_of_acting {s : State} (hs : StationLaw s) (ha : s.acting = true) : s.resetN = true := by
  cases hn : s.resetN with
  | true => rfl
  | false => rw [State.acting, hs.2.2.1 hn] at ha; cases ha

theorem stationLaw_enterLoading (n : Station) {s : State} (hq : s = s.quiet) (hs : StationLaw s) :
    StationLaw (enterLoading n s) := by
  unfold enterLoading
  split
  · exact hs
  · rw [hq]
    dsimp only
    split
    · exact ⟨by simp [State.quiet, State.reset], by simp [State.quiet, State.reset], by simp, fun _ => rfl⟩
    · exact ⟨by simp [State.quiet, State.reset], by simp [State.quiet, State.reset], by simp, fun _ => rfl⟩

theorem stationLaw_loadProfile (im : List Byte) {s : State} (hq : s = s.quiet) (hs : StationLaw s) :
    StationLaw (loadProfile im s) := by
  unfold loadProfile
  split
  · next hload =>
    rw [hq]
    split
    · exact stationLaw_of_acting rfl (by simp [State.quiet, State.reset]) (by simp [State.quiet, State.reset])
        (by simp [State.quiet, hload])
    · exact ⟨by simp [State.quiet, State.reset], by simp [State.quiet, State.reset], by simp [State.quiet, hload],
        fun _ => rfl⟩
  · exact hs

theorem stationLaw_mark {s : State} (ha : s.acting = true) (hsync : s.synced = false) (hs : StationLaw s) :
    StationLaw (markEvent ((s.setInterval 0).setSynced true)) := by
  have hrn := hs.resetN_of_acting ha
  obtain ⟨h1, h2, -, -⟩ := hs
  unfold markEvent
  cases hst : s.station with
  | loading => rw [State.acting, hst] at ha; cases ha
  | halted => rw [State.acting, hst] at ha; cases ha
  | listening => simp [hst, hsync] at h1
  | running => simp [hst, hsync] at h1
  | syncing =>
    simp only [setSynced_station, setInterval_station, hst]
    split <;> exact stationLaw_of_acting rfl (by simp) (by simp) (by simp [hrn])
  | suspended =>
    simp only [setSynced_station, setInterval_station, hst]
    split <;> exact stationLaw_of_acting rfl (by simp) (by simp) (by simp [hrn])

theorem stationLaw_loss {s : State} (ha : s.acting = true) (hsync : s.synced = true) (hs : StationLaw s) :
    StationLaw (suspend ((timingFault s).setSynced false)) := by
  have hf := stationLaw_of_keeps (timingFault_keeps s) (by decide) ha hs
  have hst := timingFault_keeps s .station (by decide)
  have hrn := timingFault_keeps s .resetN (by decide)
  simp only [State.agree] at hst hrn
  rw [hs.resetN_of_acting ha] at hrn
  obtain ⟨h1, -, -, -⟩ := hs
  unfold suspend
  rcases h1.mp hsync with e | e <;> simp only [setSynced_station, hst, e] <;>
    exact stationLaw_of_acting rfl (by simp) (by simp) (by simp [hrn])

theorem stationLaw_timerLaw : TimerLaw StationLaw where
  frame hk hl ha hs :=
    have hread : ∀ f ∈ [Field.resetN, .station, .resume, .synced], f ∈ timing := by decide
    stationLaw_of_keeps hk (fun f hf hm => hl f hf (hread f hm)) ha hs
  hardwareReset s := ⟨by simp [hardwareReset, State.reset], by simp [hardwareReset, State.reset], fun _ => rfl,
    fun _ => rfl⟩
  enterLoading n _ _ hq hs := stationLaw_enterLoading n hq hs
  loadProfile im _ _ hq hs := stationLaw_loadProfile im hq hs
  stationReset s ha hs := stationLaw_of_acting rfl (by simp [stationReset, State.reset])
    (by simp [stationReset, State.reset]) (by simp [stationReset, hs.resetN_of_acting ha])
  endListening s ha hst hs := by
    have hrn := hs.resetN_of_acting ha
    obtain ⟨h1, h2, -, -⟩ := hs
    exact stationLaw_of_acting rfl (by simp [h1, hst]) (by simp [h2, hst]) (by simp [hrn])
  beginReset s ha hs := stationLaw_of_keeps (setResetSeq_keeps s _) (by decide) ha hs
  closes s ha hs := stationLaw_of_keeps (settleCloses_keeps s) (by decide) ha hs
  closeDue t d s ha _ hs := stationLaw_of_keeps (((setClosesDue_keeps s _).mono (by decide)).andThen
    (timeoutClose_keeps t d _) (l := .closesDue :: [.contexts, .records, .openIntervals, .register, .flags, .txQueue])
    (by decide)) (by decide) ha hs
  closeInterval t d c s ha hs := stationLaw_of_keeps (closeInterval_keeps t d c s) (by decide) ha hs
  pulse s ha _ _ hs := stationLaw_of_keeps (((setInterval_keeps s _).mono (l' := .interval :: counting)
    (by decide)).andThen (pulseEvent_keeps _) (by decide)) (by decide) ha hs
  mismatch s ha _ hs := stationLaw_of_keeps ((((timingFault_keeps s).mono (l' := .interval :: faulting ++ counting)
    (by decide)).andThen (setInterval_keeps _ _) (by decide)).andThen (pulseEvent_keeps _) (by decide)) (by decide) ha hs
  mark _ ha hsync hs := stationLaw_mark ha hsync hs
  loss _ ha hsync hs := stationLaw_loss ha hsync hs
  beginPlacement t later s ha _ _ hs := stationLaw_of_keeps (((setPlacementsDue_keeps s later).mono
    (l' := [.placementsDue, .contexts, .refreshPtr, .inFlight, .flags, .txQueue, .flight]) (by decide)).andThen
    (beginPlacement_keeps t _) (by decide)) (by decide) ha hs
  engineMove _ _ ha hs e := stationLaw_of_keeps (engineMove_keeps e) (by decide) ha hs
  completePlacement s ha _ hs := stationLaw_of_keeps (completePlacement_keeps s) (by decide) ha hs

/-- Settles O55: the law reads four fields while the part acts, which the start-up rows, mark, loss, end of listening and
station reset alone write. -/
theorem stationLawKept : Obligations.StationLawKept := fun _ _ hs e =>
  step_preserved stationLaw_timerLaw.preserved (fun v _ h => stationLaw_setPending v h) hs hs e

end Sys2Proof.Machine
end

section
/-! The law of the open intervals (R137): the keys a close removes, a completion adds and a pulse makes due, and why no
direction has more than six. -/
namespace Sys2Proof.Machine

/-- The intervals and directions that are open. -/
def State.openKeys (s : State) : List (Interval × Direction) := s.openIntervals.map fun o => (o.interval, o.dir)

theorem isOpen_iff (s : State) (t : Interval) (d : Direction) : s.isOpen t d = true ↔ (t, d) ∈ s.openKeys := by
  simp [State.isOpen, State.openKeys]

theorem openKeys_of_keeps {l : List Field} {s t : State} (h : Keeps l s t) (hl : Field.openIntervals ∉ l) :
    t.openKeys = s.openKeys := congrArg (List.map _) (h .openIntervals hl)

/-- The law read off the keys. -/
theorem openLaw_iff (s : State) : OpenLaw s ↔
    (s.synced = false → s.flight = none ∧ s.placementsDue = [] ∧ s.openKeys = []) ∧ s.openKeys.Nodup ∧
    (∀ k ∈ s.openKeys, overdue s.interval k.1 = true → k ∈ s.closesDue) ∧
    ∀ d, (s.openKeys.filter fun k => decide (k.2 = d)).length ≤ 6 := by
  simp [OpenLaw, State.openKeys, List.filter_map, Function.comp_def]

/-- A synchronised part with some of the keys it had, those overdue still due to close. -/
theorem openLaw_of_sublist {s t : State} (hs : OpenLaw s) (hsync : s.synced = true → t.synced = true)
    (hidle : s.synced = false → t.flight = none ∧ t.placementsDue = [])
    (hkeys : t.openKeys.Sublist s.openKeys)
    (hdue : ∀ k ∈ t.openKeys, overdue t.interval k.1 = true → k ∈ t.closesDue) : OpenLaw t := by
  rw [openLaw_iff] at *
  obtain ⟨h1, h2, -, h4⟩ := hs
  refine ⟨fun ht => ?_, h2.sublist hkeys, hdue, fun d => (hkeys.filter _).length_le.trans (h4 d)⟩
  have hf : s.synced = false := by
    cases e : s.synced with
    | false => rfl
    | true => rw [hsync e] at ht; cases ht
  exact ⟨(hidle hf).1, (hidle hf).2, List.sublist_nil.mp ((h1 hf).2.2 ▸ hkeys)⟩

theorem openLaw_of_keeps {l : List Field} {s t : State} (hk : Keeps l s t)
    (hl : ∀ f ∈ l, f ∉ [Field.synced, .flight, .placementsDue, .openIntervals, .interval, .closesDue])
    (hs : OpenLaw s) : OpenLaw t := by
  have e1 := hk .synced fun hm => hl _ hm (by decide)
  have e2 := hk .flight fun hm => hl _ hm (by decide)
  have e3 := hk .placementsDue fun hm => hl _ hm (by decide)
  have e4 := hk .openIntervals fun hm => hl _ hm (by decide)
  have e5 := hk .interval fun hm => hl _ hm (by decide)
  have e6 := hk .closesDue fun hm => hl _ hm (by decide)
  simp only [State.agree] at e1 e2 e3 e4 e5 e6
  simpa only [OpenLaw, e1, e2, e3, e4, e5, e6] using hs

/-- A synchronised part may begin, move and end placements. -/
theorem openLaw_of_synced {l : List Field} {s t : State} (hk : Keeps l s t)
    (hl : ∀ f ∈ l, f ∉ [Field.synced, .openIntervals, .interval, .closesDue])
    (hsync : s.synced = true) (hs : OpenLaw s) : OpenLaw t := by
  have e1 := hk .synced fun hm => hl _ hm (by decide)
  have e4 := hk .openIntervals fun hm => hl _ hm (by decide)
  have e5 := hk .interval fun hm => hl _ hm (by decide)
  have e6 := hk .closesDue fun hm => hl _ hm (by decide)
  simp only [State.agree] at e1 e4 e5 e6
  obtain ⟨-, hrest⟩ := hs
  refine ⟨fun ht => ?_, by simpa only [e4, e5, e6] using hrest⟩
  rw [e1, hsync] at ht; cases ht

/-- With nothing open the law is about the placements alone. -/
theorem openLaw_of_none {s : State} (hopen : s.openIntervals = [])
    (hidle : s.synced = false → s.flight = none ∧ s.placementsDue = []) : OpenLaw s :=
  ⟨fun h => ⟨(hidle h).1, (hidle h).2, hopen⟩, by simp [hopen], by simp [hopen], by simp [hopen]⟩

/-! ### What a close removes -/

theorem closeInterval_openKeys (t : Interval) (d : Direction) (c : CloseCause) (s : State) :
    (closeInterval t d c s).openKeys = s.openKeys.filter fun k => decide (k ≠ (t, d)) := by
  have hsettled := (Keeps.foldl (settleRecord_keeps c) (s.records.filter (·.inClose t d)) (s.writeCause t d c)
    ).openIntervals_eq (by decide)
  have hwritten : (s.writeCause t d c).openKeys = s.openKeys := by
    rw [State.openKeys, State.writeCause, setOpenIntervals_openIntervals, List.map_map]
    refine List.map_congr_left fun o _ => ?_
    simp only [Function.comp_apply]
    split <;> rfl
  have hleft : (closeInterval t d c s).openIntervals =
      (s.writeCause t d c).openIntervals.filter fun o => !(decide (o.interval = t) && decide (o.dir = d)) := by
    rw [← hsettled]
    simp only [closeInterval, State.dropOpen, updateAverages, setRegister_openIntervals,
      setOpenIntervals_openIntervals, setRecords_openIntervals, setContexts_openIntervals]
  rw [State.openKeys, hleft, ← hwritten, State.openKeys, List.filter_map]
  congr 2
  funext o
  simp [Prod.ext_iff]

theorem timeoutClose_openKeys (t : Interval) (d : Direction) (s : State) :
    (timeoutClose t d s).openKeys = s.openKeys.filter fun k => decide (k ≠ (t, d)) := by
  unfold timeoutClose
  split
  · dsimp only
    split
    · rw [openKeys_of_keeps (raise_keeps _ _) (by decide), closeInterval_openKeys]
    · exact closeInterval_openKeys t d _ s
  · next h =>
    rw [isOpen_iff] at h
    exact (List.filter_eq_self.mpr fun k hk => decide_eq_true (ne_of_mem_of_not_mem hk h)).symm

theorem foldl_timeoutClose_openKeys (ds : List (Interval × Direction)) (s : State) :
    (ds.foldl (fun s o => timeoutClose o.1 o.2 s) s).openKeys = s.openKeys.filter fun k => decide (k ∉ ds) := by
  induction ds generalizing s with
  | nil => simp
  | cons o ds ih =>
    rw [List.foldl_cons, ih, timeoutClose_openKeys, List.filter_filter]
    congr 1
    funext k
    simp [Bool.and_comm]

theorem settleCloses_openKeys (s : State) :
    (settleCloses s).openKeys = s.openKeys.filter fun k => decide (k ∉ s.closesDue) :=
  foldl_timeoutClose_openKeys s.closesDue (s.setClosesDue [])

/-! ### Six intervals of a direction -/

/-- The ages an interval has that is not overdue: 0 to 3, and the two of an interval still ahead. -/
theorem age_of_not_overdue {now t : Interval} (h : overdue now t = false) :
    now - t ∈ ([0, 1, 2, 3, 4094, 4095] : List Interval) := by
  have hage : ¬(4 ≤ (now - t).val ∧ (now - t).val ≤ 4093) := of_decide_eq_false h
  generalize now - t = a at hage ⊢
  simp only [List.mem_cons, List.not_mem_nil, or_false, Fin.ext_iff, Fin.isValue, Fin.coe_ofNat_eq_mod,
    Nat.zero_mod, Nat.one_mod, Nat.reduceMod]
  omega

theorem length_le_six_of_not_overdue {now : Interval} {l : List (Interval × Direction)} (hnodup : l.Nodup)
    (hage : ∀ k ∈ l, overdue now k.1 = false) (d : Direction) :
    (l.filter fun k => decide (k.2 = d)).length ≤ 6 := by
  have hinj : ((l.filter fun k => decide (k.2 = d)).map fun k => now - k.1).Nodup := by
    refine List.Nodup.map_on ?_ (hnodup.filter _)
    intro x hx y hy hxy
    simp only [List.mem_filter, decide_eq_true_eq] at hx hy
    exact Prod.ext (sub_right_injective hxy) (hx.2.trans hy.2.symm)
  have hsub : ((l.filter fun k => decide (k.2 = d)).map fun k => now - k.1) ⊆
      ([0, 1, 2, 3, 4094, 4095] : List Interval) := by
    intro a ha
    obtain ⟨k, hk, rfl⟩ := List.mem_map.mp ha
    exact age_of_not_overdue (hage k (List.mem_of_mem_filter hk))
  simpa using (List.subperm_of_subset hinj hsub).length_le

/-! ### The law at a completion -/

theorem composePlacement_openIntervals (f : Flight) (s : State) :
    (composePlacement f s).openIntervals = s.opened f.target := by
  unfold composePlacement
  dsimp only
  simp only [setFlight_openIntervals, setInFlight_openIntervals, setCause_openIntervals]
  refine (claimCompletion_keeps _ _ _ .openIntervals (by decide)).trans ?_
  exact offers_keeps _ _ .openIntervals (by decide)

theorem opened_keys (s : State) (t : Interval) : (s.opened t).map (fun o => (o.interval, o.dir)) =
    s.openKeys ++ [(t, .dl), (t, .ul)].filter fun k => decide (k ∉ s.openKeys) := by
  have hopen : ∀ d, s.isOpen t d = decide ((t, d) ∈ s.openKeys) := fun d => by
    rw [Bool.eq_iff_iff, isOpen_iff, decide_eq_true_eq]
  simp only [State.opened, List.map_append, hopen]
  by_cases h1 : (t, Direction.dl) ∈ s.openKeys <;> by_cases h2 : (t, Direction.ul) ∈ s.openKeys <;>
    simp [h1, h2] <;> rfl

theorem composePlacement_openKeys (f : Flight) (s : State) : (composePlacement f s).openKeys =
    s.openKeys ++ [(f.target, .dl), (f.target, .ul)].filter fun k => decide (k ∉ s.openKeys) := by
  rw [← opened_keys, State.openKeys, composePlacement_openIntervals]

theorem catchUp_openKeys (t : Interval) (s : State) : (catchUp t s).openKeys =
    if overdue s.interval t = true then s.openKeys.filter fun k => decide (k ≠ (t, .dl) ∧ k ≠ (t, .ul))
    else s.openKeys := by
  unfold catchUp
  split
  · rw [timeoutClose_openKeys, timeoutClose_openKeys, openKeys_of_keeps (takeDeadline_keeps t s) (by decide),
      List.filter_filter]
    congr 1
    funext k
    simp [Bool.and_comm]
  · rfl

theorem openLaw_completePlacement {s : State} (hc : s.closesDue = []) (hs : OpenLaw s) :
    OpenLaw (completePlacement s) := by
  unfold completePlacement
  split
  · exact hs
  · next f hf =>
    have hcompose := composePlacement_keeps f s
    have hlate := catchUp_keeps f.target (composePlacement f s)
    have hint : (catchUp f.target (composePlacement f s)).interval = s.interval :=
      (hlate.interval_eq (by decide)).trans (hcompose.interval_eq (by decide))
    have hsync : (catchUp f.target (composePlacement f s)).synced = s.synced :=
      (hlate.synced_eq (by decide)).trans (hcompose.synced_eq (by decide))
    have hcint : (composePlacement f s).interval = s.interval := hcompose.interval_eq (by decide)
    obtain ⟨h1, h2, h3, -⟩ := (openLaw_iff s).mp hs
    simp only [hc, List.not_mem_nil, imp_false, Bool.not_eq_true] at h3
    have hnodup : (composePlacement f s).openKeys.Nodup := by
      rw [composePlacement_openKeys, List.nodup_append']
      refine ⟨h2, List.Nodup.filter _ (by simp), fun k hk hk' => ?_⟩
      simp only [List.mem_filter, decide_eq_true_eq] at hk'
      exact hk'.2 hk
    have hage : ∀ k ∈ (catchUp f.target (composePlacement f s)).openKeys, overdue s.interval k.1 = false := by
      rw [catchUp_openKeys, composePlacement_openKeys, hcint]
      intro k hk
      split at hk
      · simp only [List.mem_filter, List.mem_append, List.mem_cons, List.not_mem_nil, or_false,
          decide_eq_true_eq] at hk
        obtain ⟨hk | ⟨hk, -⟩, hne⟩ := hk
        · exact h3 k hk
        · rcases hk with rfl | rfl
          · exact absurd rfl hne.1
          · exact absurd rfl hne.2
      · next hin =>
        simp only [List.mem_filter, List.mem_append, List.mem_cons, List.not_mem_nil, or_false] at hk
        rcases hk with hk | ⟨rfl | rfl, -⟩
        · exact h3 k hk
        · simpa using hin
        · simpa using hin
    have hsub : (catchUp f.target (composePlacement f s)).openKeys.Nodup := by
      rw [catchUp_openKeys]
      split
      · exact hnodup.filter _
      · exact hnodup
    rw [openLaw_iff, hint, hsync]
    refine ⟨fun h => ?_, hsub, fun k hk ho => ?_, fun d => length_le_six_of_not_overdue hsub hage d⟩
    · rw [(h1 h).1] at hf; cases hf
    · rw [hage k hk] at ho; cases ho

/-! ### The law at the other events -/

theorem timingFault_idle (s : State) : (timingFault s).openIntervals = [] ∧ (timingFault s).flight = none ∧
    (timingFault s).placementsDue = [] := ⟨rfl, rfl, rfl⟩

theorem openLaw_pulse {s : State} (hsync : s.synced = true) (hs : OpenLaw s) :
    OpenLaw (pulseEvent (s.setInterval (s.interval + 1))) := by
  have hk := pulseEvent_keeps (s.setInterval (s.interval + 1))
  have hsync' : (pulseEvent (s.setInterval (s.interval + 1))).synced = true :=
    (hk.synced_eq (by decide)).trans hsync
  have hopen : (pulseEvent (s.setInterval (s.interval + 1))).openIntervals = s.openIntervals :=
    hk.openIntervals_eq (by decide)
  have hint : (pulseEvent (s.setInterval (s.interval + 1))).interval = s.interval + 1 := hk.interval_eq (by decide)
  refine openLaw_of_sublist hs (fun _ => hsync') (fun h => by rw [hsync] at h; cases h) ?_ ?_
  · rw [State.openKeys, hopen]; exact List.Sublist.refl _
  · intro k hk hdue
    rw [State.openKeys, hopen] at hk
    obtain ⟨o, ho, rfl⟩ := List.mem_map.mp hk
    rw [hint] at hdue
    rw [pulseEvent_closesDue]
    exact List.mem_map.mpr ⟨o, List.mem_filter.mpr ⟨ho, hdue⟩, rfl⟩

theorem openLaw_closeDue (t : Interval) (d : Direction) {s : State} (hs : OpenLaw s) :
    OpenLaw (timeoutClose t d (s.setClosesDue (s.closesDue.erase (t, d)))) := by
  have hk := timeoutClose_keeps t d (s.setClosesDue (s.closesDue.erase (t, d)))
  have hkeys : (timeoutClose t d (s.setClosesDue (s.closesDue.erase (t, d)))).openKeys =
      s.openKeys.filter fun k => decide (k ≠ (t, d)) := timeoutClose_openKeys _ _ _
  have hidle := fun h => ((openLaw_iff s).mp hs).1 h
  obtain ⟨-, -, h3, -⟩ := (openLaw_iff s).mp hs
  refine openLaw_of_sublist hs (hk.synced_eq (by decide)).trans (fun h => ?_) ?_ ?_
  · exact ⟨(hk.flight_eq (by decide)).trans (hidle h).1, (hk.placementsDue_eq (by decide)).trans (hidle h).2.1⟩
  · rw [hkeys]; exact List.filter_sublist
  · intro k hm hdue
    rw [hkeys, List.mem_filter, decide_eq_true_eq] at hm
    rw [hk.interval_eq (by decide)] at hdue
    rw [hk.closesDue_eq (by decide)]
    exact (List.mem_erase_of_ne hm.2).mpr (h3 k hm.1 hdue)

theorem openLaw_closeInterval (t : Interval) (d : Direction) (c : CloseCause) {s : State} (hs : OpenLaw s) :
    OpenLaw (closeInterval t d c s) := by
  have hk := closeInterval_keeps t d c s
  have hidle := fun h => ((openLaw_iff s).mp hs).1 h
  obtain ⟨-, -, h3, -⟩ := (openLaw_iff s).mp hs
  refine openLaw_of_sublist hs (hk.synced_eq (by decide)).trans (fun h => ?_) ?_ ?_
  · exact ⟨(hk.flight_eq (by decide)).trans (hidle h).1, (hk.placementsDue_eq (by decide)).trans (hidle h).2.1⟩
  · rw [closeInterval_openKeys]; exact List.filter_sublist
  · intro k hm hdue
    rw [closeInterval_openKeys, List.mem_filter] at hm
    rw [hk.interval_eq (by decide)] at hdue
    rw [hk.closesDue_eq (by decide)]
    exact h3 k hm.1 hdue

theorem openLaw_settleCloses {s : State} (hs : OpenLaw s) : OpenLaw (settleCloses s) := by
  have hk := settleCloses_keeps s
  have hidle := fun h => ((openLaw_iff s).mp hs).1 h
  obtain ⟨-, -, h3, -⟩ := (openLaw_iff s).mp hs
  refine openLaw_of_sublist hs (hk.synced_eq (by decide)).trans (fun h => ?_) ?_ ?_
  · exact ⟨(hk.flight_eq (by decide)).trans (hidle h).1, (hk.placementsDue_eq (by decide)).trans (hidle h).2.1⟩
  · rw [settleCloses_openKeys]; exact List.filter_sublist
  · intro k hm hdue
    rw [settleCloses_openKeys, List.mem_filter, decide_eq_true_eq] at hm
    rw [hk.interval_eq (by decide)] at hdue
    exact absurd (h3 k hm.1 hdue) hm.2

theorem enterLoading_keeps (n : Station) (s : State) :
    Keeps [.resetN, .ownStation, .station] s (enterLoading n s) := by
  unfold enterLoading
  have read : Keeps [.resetN, .ownStation, .station] s (((s.setResetN true).setOwnStation n).setStation .loading) :=
    (((setResetN_keeps s _).mono (by decide)).andThen (setOwnStation_keeps _ _) (by decide)).andThen
      (setStation_keeps _ _) (by decide)
  split
  · exact Keeps.refl _ s
  · dsimp only
    split
    · exact read.andThen (setStation_keeps _ _) (by decide)
    · exact read

theorem loadProfile_keeps (im : List Byte) (s : State) : Keeps [.profile, .station] s (loadProfile im s) := by
  unfold loadProfile
  split
  · split
    · exact ((setProfile_keeps s _).mono (by decide)).andThen (setStation_keeps _ _) (by decide)
    · exact (setStation_keeps s _).mono (by decide)
  · exact Keeps.refl _ s

/-- A part without synchronisation has no placement in flight. -/
theorem synced_of_flight {s : State} {f : Flight} (hf : s.flight = some f) (hs : OpenLaw s) : s.synced = true := by
  cases h : s.synced with
  | true => rfl
  | false => rw [(hs.1 h).1] at hf; cases hf

theorem flight_of_engineMove {s t : State} (e : (engineMove s).state = some t) : ∃ f, s.flight = some f := by
  cases hf : s.flight with
  | some f => exact ⟨f, rfl⟩
  | none => simp [engineMove, hf, Move.state] at e

theorem openLaw_timerLaw : TimerLaw OpenLaw where
  frame hk hl _ hs :=
    have hread : ∀ f ∈ [Field.synced, .flight, .placementsDue, .openIntervals, .interval, .closesDue], f ∈ timing := by
      decide
    openLaw_of_keeps hk (fun f hf hm => hl f hf (hread f hm)) hs
  hardwareReset s := openLaw_of_none rfl fun _ => ⟨rfl, rfl⟩
  enterLoading n s _ _ hs := openLaw_of_keeps (enterLoading_keeps n s) (by decide) hs
  loadProfile im s _ _ hs := openLaw_of_keeps (loadProfile_keeps im s) (by decide) hs
  stationReset s _ _ := openLaw_of_none rfl fun _ => ⟨rfl, rfl⟩
  endListening s _ _ hs := openLaw_of_keeps (((setListening_keeps s 0).mono (l' := [.listening, .station])
    (by decide)).andThen (setStation_keeps _ _) (by decide)) (by decide) hs
  beginReset s _ hs := openLaw_of_keeps (setResetSeq_keeps s _) (by decide) hs
  closes _ _ hs := openLaw_settleCloses hs
  closeDue t d _ _ _ hs := openLaw_closeDue t d hs
  closeInterval t d c _ _ hs := openLaw_closeInterval t d c hs
  pulse _ _ hsync _ hs := openLaw_pulse hsync hs
  mismatch s _ hsync _ := by
    have hk := pulseEvent_keeps ((timingFault s).setInterval 0)
    refine openLaw_of_none ((hk.openIntervals_eq (by decide)).trans (timingFault_idle s).1) fun h => ?_
    rw [hk.synced_eq (by decide), setInterval_synced, timingFault_keeps s .synced (by decide), hsync] at h
    cases h
  mark s _ hsync hs := by
    have hk := markEvent_keeps ((s.setInterval 0).setSynced true)
    refine openLaw_of_none ((hk.openIntervals_eq (by decide)).trans (hs.1 hsync).2.2) fun h => ?_
    rw [hk.synced_eq (by decide)] at h
    cases h
  loss s _ _ _ := by
    have hk := suspend_keeps ((timingFault s).setSynced false)
    exact openLaw_of_none ((hk.openIntervals_eq (by decide)).trans rfl) fun _ =>
      ⟨(hk.flight_eq (by decide)).trans rfl, (hk.placementsDue_eq (by decide)).trans rfl⟩
  beginPlacement t later s _ _ hdue hs := by
    have hsync : s.synced = true := by
      cases h : s.synced with
      | true => rfl
      | false => rw [(hs.1 h).2.1] at hdue; cases hdue
    exact openLaw_of_synced (((setPlacementsDue_keeps s later).mono
      (l' := [.placementsDue, .contexts, .refreshPtr, .inFlight, .flags, .txQueue, .flight]) (by decide)).andThen
      (beginPlacement_keeps t _) (by decide)) (by decide) hsync hs
  engineMove s t _ hs e := by
    obtain ⟨f, hf⟩ := flight_of_engineMove e
    exact openLaw_of_synced (engineMove_keeps e) (by decide) (synced_of_flight hf hs) hs
  completePlacement _ _ hc hs := openLaw_completePlacement hc hs

theorem openLaw_step {s t : State} (hst : StationLaw s) (hs : OpenLaw s) (e : step s = .next t) : OpenLaw t :=
  step_preserved openLaw_timerLaw.preserved (fun _ _ h => h) hst hs e

end Sys2Proof.Machine
end

section
/-! Blocks and geometry: the block search of a band, the units a grant covers, and the lay of a ranked candidate (R10 to
R13, R118 to R120). -/
namespace Sys2Proof.Machine

/-- A search through an ascending list finds its lowest element that satisfies the test. -/
theorem find?_ascending {l : List Nat} {p : Nat → Bool} {a : Nat} (hl : l.Pairwise (· < ·)) (h : l.find? p = some a) :
    a ∈ l ∧ p a = true ∧ ∀ b ∈ l, b < a → p b = false := by
  obtain ⟨hp, before, after, rfl, hbefore⟩ := List.find?_eq_some_iff_append.mp h
  refine ⟨by simp, hp, fun b hb hlt => ?_⟩
  rcases List.mem_append.mp hb with hb | hb
  · simpa using hbefore b hb
  · obtain ⟨-, hafter, -⟩ := List.pairwise_append.mp hl
    rcases List.mem_cons.mp hb with rfl | hb
    · exact absurd hlt (lt_irrefl _)
    · exact absurd ((List.pairwise_cons.mp hafter).1 b hb) (by omega)

/-! ### The block search of a band (R10, R120) -/

theorem allFree_iff (g : Grid) (base size : Nat) :
    allFree g base size = true ↔ ∀ j < size, isFree g (base + j) = true := by
  simp [allFree]

theorem mem_blockBases {b : Band} {size base : Nat} (hsize : size ∈ [1, 2, 4, 8]) :
    base ∈ blockBases b size ↔ base % size = 0 ∧ 8 * b.val ≤ base ∧ base + size ≤ 8 * b.val + 8 := by
  simp only [List.mem_cons, List.not_mem_nil, or_false] at hsize
  simp only [blockBases, List.mem_map, List.mem_range]
  constructor
  · rintro ⟨m, hm, rfl⟩
    rcases hsize with rfl | rfl | rfl | rfl <;> omega
  · rintro ⟨hmod, hlow, hhigh⟩
    refine ⟨(base - 8 * b.val) / size, ?_, ?_⟩ <;> rcases hsize with rfl | rfl | rfl | rfl <;> omega

theorem blockBases_ascending (b : Band) {size : Nat} (hsize : 0 < size) : (blockBases b size).Pairwise (· < ·) := by
  refine List.pairwise_map.mpr (List.pairwise_lt_range.imp fun {m n} hlt => ?_)
  have := Nat.mul_lt_mul_of_pos_right hlt hsize
  omega

/-- The block found is the lowest one of its size that is all free. -/
theorem findBlock_eq_some {g : Grid} {b : Band} {size base : Nat} (hsize : size ∈ [1, 2, 4, 8])
    (h : findBlock g b size = some base) :
    (base % size = 0 ∧ 8 * b.val ≤ base ∧ base + size ≤ 8 * b.val + 8) ∧ (∀ j < size, isFree g (base + j) = true) ∧
    ∀ other, other % size = 0 → 8 * b.val ≤ other → other < base → ¬ ∀ j < size, isFree g (other + j) = true := by
  have hpos : 0 < size := by
    have hall : ∀ n ∈ [1, 2, 4, 8], 0 < n := by decide
    exact hall size hsize
  obtain ⟨hmem, hfree, hlow⟩ := find?_ascending (blockBases_ascending b hpos) h
  rw [mem_blockBases hsize] at hmem
  refine ⟨hmem, (allFree_iff g base size).mp hfree, fun other hmod hge hlt hall => ?_⟩
  have hother : other ∈ blockBases b size := (mem_blockBases hsize).mpr ⟨hmod, hge, by omega⟩
  have hno := hlow other hother hlt
  rw [(allFree_iff g other size).mpr hall] at hno
  cases hno

theorem findBlock_eq_none {g : Grid} {b : Band} {size : Nat} (hsize : size ∈ [1, 2, 4, 8])
    (h : findBlock g b size = none) {other : Nat} (hmod : other % size = 0) (hge : 8 * b.val ≤ other)
    (hle : other + size ≤ 8 * b.val + 8) : ¬ ∀ j < size, isFree g (other + j) = true := fun hall =>
  List.find?_eq_none.mp h other ((mem_blockBases hsize).mpr ⟨hmod, hge, hle⟩) ((allFree_iff g other size).mpr hall)

theorem sizesTried_eq {u : Nat} (hlow : 1 ≤ u) (hhigh : u ≤ 8) :
    sizesTried u = [8, 4, 2, 1].filter fun size => decide (size < 2 * u) := by
  interval_cases u <;> rfl

theorem mem_sizesTried {u size : Nat} (hlow : 1 ≤ u) (hhigh : u ≤ 8) :
    size ∈ sizesTried u ↔ size ∈ [1, 2, 4, 8] ∧ size < 2 * u := by
  rw [sizesTried_eq hlow hhigh, List.mem_filter, decide_eq_true_eq]
  simp only [List.mem_cons, List.not_mem_nil, or_false]
  omega

theorem sizesTried_subset (u : Nat) : sizesTried u ⊆ [1, 2, 4, 8] := by
  unfold sizesTried
  split
  · decide
  · split
    · decide
    · split <;> decide

theorem sizesTried_descending (u : Nat) : (sizesTried u).Pairwise (fun x y => y < x) := by
  unfold sizesTried
  split
  · decide
  · split
    · decide
    · split <;> decide

/-- The size found is the first tried that has a block. -/
theorem searchBlock_eq_some {g : Grid} {b : Band} {u size base : Nat} (h : searchBlock g b u = some (size, base)) :
    size ∈ sizesTried u ∧ findBlock g b size = some base ∧
    ∀ larger ∈ sizesTried u, size < larger → findBlock g b larger = none := by
  obtain ⟨before, tried, after, hsplit, hfound, hnone⟩ := List.findSome?_eq_some_iff.mp h
  obtain ⟨found, hblock, heq⟩ := Option.map_eq_some_iff.mp hfound
  obtain ⟨rfl, rfl⟩ := Prod.mk.inj heq
  refine ⟨hsplit ▸ by simp, hblock, fun larger hmem hlt => ?_⟩
  have hdesc := hsplit ▸ sizesTried_descending u
  rw [hsplit, List.mem_append, List.mem_cons] at hmem
  rcases hmem with hmem | rfl | hmem
  · simpa using hnone larger hmem
  · exact absurd hlt (lt_irrefl _)
  · exact absurd ((List.pairwise_cons.mp (List.pairwise_append.mp hdesc).2.1).1 larger hmem) (by omega)

theorem searchBlock_eq_none {g : Grid} {b : Band} {u : Nat} (h : searchBlock g b u = none) {j : Nat}
    (hlow : 8 * b.val ≤ j) (hhigh : j < 8 * b.val + 8) : isFree g j = false := by
  have hone : 1 ∈ sizesTried u := by
    unfold sizesTried
    split
    · decide
    · split
      · decide
      · split <;> decide
  have hnone : findBlock g b 1 = none := by simpa using List.findSome?_eq_none_iff.mp h 1 hone
  have := findBlock_eq_none (by decide) hnone (Nat.mod_one j) hlow (by omega)
  simpa using this

/-! ### The units a grant covers (R11 to R13) -/

/-- The position visited lies in the block. -/
theorem visited_lt (o : VisitOrder) {size first i : Nat} (hsize : size ∈ [1, 2, 4, 8]) (hfirst : first < size)
    (hi : i < size) : visited o size first i < size := by
  simp only [List.mem_cons, List.not_mem_nil, or_false] at hsize
  cases o with
  | sequential => exact Nat.mod_lt _ (by omega)
  | interleaved =>
    rcases hsize with rfl | rfl | rfl | rfl
    · exact Nat.xor_lt_two_pow (n := 0) hfirst hi
    · exact Nat.xor_lt_two_pow (n := 1) hfirst hi
    · exact Nat.xor_lt_two_pow (n := 2) hfirst hi
    · exact Nat.xor_lt_two_pow (n := 3) hfirst hi

/-- No position is visited twice. -/
theorem visited_injective (o : VisitOrder) {size first i j : Nat} (hsize : size ∈ [1, 2, 4, 8]) (hi : i < size)
    (hj : j < size) (h : visited o size first i = visited o size first j) : i = j := by
  simp only [List.mem_cons, List.not_mem_nil, or_false] at hsize
  cases o with
  | sequential =>
    simp only [visited] at h
    rcases hsize with rfl | rfl | rfl | rfl <;> omega
  | interleaved => exact Nat.xor_right_injective h

theorem visited_zero (o : VisitOrder) {size first : Nat} (hfirst : first < size) : visited o size first 0 = first := by
  cases o with
  | sequential => exact Nat.mod_eq_of_lt hfirst
  | interleaved => exact Nat.xor_zero first

theorem length_covered (o : VisitOrder) (base size first count : Nat) :
    (covered o base size first count).length = count := by simp [covered]

theorem getElem?_covered (o : VisitOrder) (base size first : Nat) {count i : Nat} (hi : i < count) :
    (covered o base size first count)[i]? = some (base + visited o size first i) := by
  simp [covered, hi]

theorem mem_covered {o : VisitOrder} {base size first count j : Nat} :
    j ∈ covered o base size first count ↔ ∃ i < count, base + visited o size first i = j := by
  simp [covered]

section
variable {size base first count : Nat} {b : Band} (o : VisitOrder) (hsize : size ∈ [1, 2, 4, 8])
  (hfirst : first < size) (hcount : count ≤ size)
include hsize

theorem covered_nodup (hcount : count ≤ size) : (covered o base size first count).Nodup := by
  refine List.Nodup.map_on ?_ List.nodup_range
  intro i hi j hj h
  rw [List.mem_range] at hi hj
  exact visited_injective o hsize (by omega) (by omega) (by simpa using h)

include hfirst hcount in
theorem mem_covered_bounds {j : Nat} (hj : j ∈ covered o base size first count) : base ≤ j ∧ j < base + size := by
  obtain ⟨i, hi, rfl⟩ := mem_covered.mp hj
  have := visited_lt o hsize hfirst (show i < size by omega)
  omega

end

/-- The four values that describe a grant give its units back. -/
theorem coveredOf_eq (o : VisitOrder) {size base first : Nat} (count : Nat) (hfirst : first < size)
    (hbase : base % size = 0) : coveredOf o (base + first) size count = covered o base size first count := by
  have hmod : (base + first) % size = first := by
    rw [Nat.add_mod, hbase, Nat.zero_add, Nat.mod_mod, Nat.mod_eq_of_lt hfirst]
  rw [coveredOf, hmod, Nat.add_sub_cancel]

theorem bandOf_eq {b : Band} {j : Nat} (hlow : 8 * b.val ≤ j) (hhigh : j < 8 * b.val + 8) : bandOf j = b := by
  apply Fin.ext
  rw [bandOf, Fin.val_ofNat]
  omega

/-! ### Units needed, and the lay of a ranked candidate (R118 to R120) -/

/-- The most units a candidate gets. -/
theorem unitsNeeded_eq (d : Direction) (reach : Reach) (backlog e : Nat) : unitsNeeded d reach backlog e =
    min (if reach = .far ∧ d = .ul then 4 else 8) ((backlog + e - 1) / e) := by
  cases reach <;> cases d <;> rfl

/-- The bits carried by `v` units fall short of the backlog exactly while `v` is below the quotient rounded up. -/
theorem lt_ceil_iff {backlog e v : Nat} (he : 0 < e) : v < (backlog + e - 1) / e ↔ v * e < backlog := by
  rw [Nat.lt_iff_add_one_le, Nat.le_div_iff_mul_le he, Nat.add_mul]
  omega

theorem unitsNeeded_pos (d : Direction) (reach : Reach) {backlog e : Nat} (he : 0 < e) (hb : 0 < backlog) :
    1 ≤ unitsNeeded d reach backlog e := by
  have : 0 < (backlog + e - 1) / e := (lt_ceil_iff he).mpr (by omega)
  rw [unitsNeeded_eq]
  split <;> omega

theorem layRanked_eq_none (g : Grid) (d : Direction) (r : Ranked) : layRanked g d r = none ↔
    ∀ x ∈ r.bands, searchBlock g x.1 (unitsNeeded d r.cand.reach r.cand.backlog (efficiency x.2)) = none := by
  simp [layRanked, List.findSome?_eq_none_iff]

/-- The lay takes the first band that yields a block. -/
theorem layRanked_of_split {g : Grid} {d : Direction} {r : Ranked} {before after : List (Band × Quality)} {b : Band}
    {q : Quality} {size base : Nat} (hbands : r.bands = before ++ (b, q) :: after)
    (hbefore : ∀ y ∈ before, searchBlock g y.1 (unitsNeeded d r.cand.reach r.cand.backlog (efficiency y.2)) = none)
    (hfound : searchBlock g b (unitsNeeded d r.cand.reach r.cand.backlog (efficiency q)) = some (size, base)) :
    layRanked g d r = some { band := b, quality := q, base := base, size := size
                             count := min (unitsNeeded d r.cand.reach r.cand.backlog (efficiency q)) size } := by
  refine List.findSome?_eq_some_iff.mpr ⟨before, (b, q), after, hbands, by simp [hfound], fun y hy => ?_⟩
  simp [hbefore y hy]

/-- A lay found is one of the candidate's bands with the block its search found. -/
theorem layRanked_eq_some {g : Grid} {d : Direction} {r : Ranked} {l : Lay} (h : layRanked g d r = some l) :
    (l.band, l.quality) ∈ r.bands ∧
    searchBlock g l.band (unitsNeeded d r.cand.reach r.cand.backlog (efficiency l.quality)) = some (l.size, l.base) ∧
    l.count = min (unitsNeeded d r.cand.reach r.cand.backlog (efficiency l.quality)) l.size := by
  obtain ⟨before, ⟨b, q⟩, after, hsplit, hfound, -⟩ := List.findSome?_eq_some_iff.mp h
  obtain ⟨⟨size, base⟩, hblock, rfl⟩ := Option.map_eq_some_iff.mp hfound
  exact ⟨hsplit ▸ by simp, hblock, rfl⟩

/-- Settles O40: the search by the first size and the lowest base that are all free, the geometry by the block's positions,
the units by the quotient rounded up, the lay by the first band with a block. -/
theorem blockSearchAndGeometry : Obligations.BlockSearchAndGeometry := by
  refine ⟨fun g b u hlow hhigh => ⟨fun size base h => ?_, fun h j => searchBlock_eq_none h, fun size hsize =>
    (mem_sizesTried hlow hhigh).mp hsize, ?_, sizesTried_eq hlow hhigh⟩, ?_, ?_, fun g d r => ⟨layRanked_eq_none g d r,
      fun before b q after size base hbands => layRanked_of_split hbands⟩⟩
  · obtain ⟨hsize, hblock, hlarger⟩ := searchBlock_eq_some h
    obtain ⟨⟨hmod, hge, hle⟩, hfree, hlowest⟩ := findBlock_eq_some (sizesTried_subset u hsize) hblock
    exact ⟨hsize, hmod, hge, hle, hfree, hlowest, fun larger hmem hlt other hom hog hol =>
      findBlock_eq_none (sizesTried_subset u hmem) (hlarger larger hmem hlt) hom hog hol⟩
  · interval_cases u <;> decide
  · intro o b size base first count hsize hbase hge hle hfirst hpos hcount
    refine ⟨covered_nodup o hsize hcount, length_covered _ _ _ _ _, ?_, fun i hi => ⟨getElem?_covered .sequential _ _ _ hi,
      getElem?_covered .interleaved _ _ _ hi⟩, fun j hj => ?_, coveredOf_eq o count hfirst hbase⟩
    · rw [List.head?_eq_getElem?, getElem?_covered _ _ _ _ (by omega), visited_zero o hfirst]
    · obtain ⟨h1, h2⟩ := mem_covered_bounds o hsize hfirst hcount hj
      exact ⟨h1, h2, bandOf_eq (by omega) (by omega)⟩
  · intro d reach backlog e he
    have heq := unitsNeeded_eq d reach backlog e
    have hceil := fun v => lt_ceil_iff (backlog := backlog) (v := v) he
    dsimp only
    generalize (if reach = .far ∧ d = .ul then 4 else 8) = cap at heq ⊢
    refine ⟨by omega, fun hlt => ?_, fun v hv => (hceil v).mp (by omega)⟩
    by_contra hshort
    have := (hceil _).mpr (Nat.not_le.mp hshort)
    omega

end Sys2Proof.Machine
end

section
/-! Ranking: the allowed bands of a candidate, its ranking, and the ranked list of a direction (R94 to R98, R117, R118). -/
namespace Sys2Proof.Machine

/-! ### Allowed bands (R94, R98, R117) -/

theorem offeredTo_far (copy : BandCopy) : copy.offeredTo .far = true ↔ copy.own = .held := by
  simp [BandCopy.offeredTo]

theorem offeredTo_iff (copy : BandCopy) (reach : Reach) :
    copy.offeredTo reach = true ↔ reach = .near ∨ copy.own = .held := by
  cases reach <;> simp [BandCopy.offeredTo]

theorem derated_iff (copy : BandCopy) :
    copy.derated = true ↔ copy.own = .free ∧ copy.entry = true ∨ copy.own = .releasing := by
  cases h : copy.own <;> simp [BandCopy.derated, h]

theorem derateQuality_val (derate : Nat) (reach : Reach) (copy : BandCopy) (q : Quality) :
    (derateQuality derate reach copy q).val =
      if reach = .near ∧ (copy.own = .free ∧ copy.entry = true ∨ copy.own = .releasing) then q.val - derate
      else q.val := by
  simp only [derateQuality, derated_iff]
  split <;> rfl

theorem mem_allowedBands {p : Profile} {copies : Vector BandCopy 6} {c : Candidate} {b : Band} {q : Quality} :
    (b, q) ∈ allowedBands p copies c ↔ (copies[b]).offeredTo c.reach = true ∧ 0 < efficiency q ∧
      derateQuality p.derate c.reach copies[b] c.q[b] = q := by
  simp only [allowedBands, List.mem_filterMap, List.mem_filter]
  constructor
  · rintro ⟨b', ⟨-, hoffer⟩, hq⟩
    split at hq
    · cases hq
    · next hpos =>
      obtain ⟨rfl, rfl⟩ := Prod.mk.inj (Option.some.inj hq)
      exact ⟨hoffer, Nat.pos_of_ne_zero hpos, rfl⟩
  · rintro ⟨hoffer, hpos, rfl⟩
    exact ⟨b, ⟨List.mem_finRange b, hoffer⟩, if_neg hpos.ne'⟩

/-- Allowed bands stand in band order. -/
theorem allowedBands_ascending (p : Profile) (copies : Vector BandCopy 6) (c : Candidate) :
    (allowedBands p copies c).Pairwise fun x y => x.1 < y.1 := by
  refine List.pairwise_filterMap.mpr
    (((List.pairwise_lt_finRange 6).filter _).imp fun {b b'} hlt x hx y hy => ?_)
  dsimp only at hx hy
  split at hx
  · cases hx
  · split at hy
    · cases hy
    · rw [← Option.some.inj hx, ← Option.some.inj hy]; exact hlt

/-! ### The ranking of one candidate -/

/-- Bands by metric, largest first, equal ones by number. -/
abbrev BandOrder (p : Profile) (c : Candidate) : Band × Quality → Band × Quality → Prop :=
  KeyOrder (fun x => (candidateMetric p c x.2).1) fun x y => x.1 < y.1

theorem rankCandidate_eq_none {p : Profile} {copies : Vector BandCopy 6} {c : Candidate} :
    rankCandidate p copies c = none ↔ allowedBands p copies c = [] := by
  have hperm := sortBy_perm (fun x y : Band × Quality =>
    decide ((candidateMetric p c y.2).1 < (candidateMetric p c x.2).1)) (allowedBands p copies c)
  unfold rankCandidate
  dsimp only
  split
  · next h => rw [h] at hperm; simpa using hperm.symm.eq_nil
  · next h => rw [h] at hperm; simpa using fun e => by simpa [e] using hperm.length_eq

/-- A ranked candidate: its allowed bands in order, and the metric of the first. -/
theorem rankCandidate_eq_some {p : Profile} {copies : Vector BandCopy 6} {c : Candidate} {r : Ranked}
    (h : rankCandidate p copies c = some r) : r.cand = c ∧ r.bands.Perm (allowedBands p copies c) ∧
      r.bands.Pairwise (BandOrder p c) ∧
      ∃ x bs, r.bands = x :: bs ∧ r.best = (candidateMetric p c x.2).1 := by
  have hperm := sortBy_perm (fun x y : Band × Quality =>
    decide ((candidateMetric p c y.2).1 < (candidateMetric p c x.2).1)) (allowedBands p copies c)
  have horder : (sortBy _ (allowedBands p copies c)).Pairwise (BandOrder p c) :=
    sortBy_keyOrder (allowedBands_ascending p copies c)
  unfold rankCandidate at h
  dsimp only at h
  split at h
  · cases h
  · next x bs hsorted =>
    rw [hsorted] at hperm horder
    rw [← Option.some.inj h]
    exact ⟨rfl, hperm, horder, x, bs, rfl, rfl⟩

/-! ### The ranked list of a direction -/

section
variable (f : Flight) (p : Profile) (d : Direction)

theorem mem_fresh {c : Candidate} : c ∈ f.fresh d ↔ c ∈ f.candidates.at d ∧ c.stale = false := by
  simp [Flight.fresh]

theorem ranked_perm : (f.ranked p d).Perm ((f.fresh d).filterMap (rankCandidate p f.bands)) := sortBy_perm _ _

theorem mem_ranked {r : Ranked} : r ∈ f.ranked p d ↔ ∃ c ∈ f.fresh d, rankCandidate p f.bands c = some r := by
  rw [(ranked_perm f p d).mem_iff, List.mem_filterMap]

/-- A candidate ranked is a fresh one with its allowed bands. -/
theorem rankCandidate_of_mem_ranked {r : Ranked} (h : r ∈ f.ranked p d) :
    r.cand ∈ f.fresh d ∧ rankCandidate p f.bands r.cand = some r := by
  obtain ⟨c, hc, hr⟩ := (mem_ranked f p d).mp h
  rw [(rankCandidate_eq_some hr).1]
  exact ⟨hc, hr⟩

variable {f d} (hcands : (f.candidates.at d).Pairwise fun x y => x.slot < y.slot)
include hcands

theorem filterMap_rankCandidate_ascending :
    ((f.fresh d).filterMap (rankCandidate p f.bands)).Pairwise fun x y => x.cand.slot < y.cand.slot := by
  refine List.pairwise_filterMap.mpr ((hcands.filter _).imp fun {c c'} hlt x hx y hy => ?_)
  rw [(rankCandidate_eq_some hx).1, (rankCandidate_eq_some hy).1]
  exact hlt

theorem ranked_keyOrder :
    (f.ranked p d).Pairwise (KeyOrder (fun r => r.best) fun x y => x.cand.slot < y.cand.slot) :=
  sortBy_keyOrder (filterMap_rankCandidate_ascending p hcands)

/-- No slot is ranked twice. -/
theorem ranked_slots_nodup : ((f.ranked p d).map (·.cand.slot)).Nodup := by
  have hasc := filterMap_rankCandidate_ascending p hcands
  rw [((ranked_perm f p d).map _).nodup_iff]
  exact (List.pairwise_map.mpr hasc).imp ne_of_lt

end

/-- The metric of a ranked candidate's first band is the largest. -/
theorem metric_le_best {p : Profile} {copies : Vector BandCopy 6} {c : Candidate} {r : Ranked}
    (h : rankCandidate p copies c = some r) : ∀ x ∈ r.bands, (candidateMetric p c x.2).1 ≤ r.best := by
  obtain ⟨-, -, horder, x, bs, hbands, hbest⟩ := rankCandidate_eq_some h
  rw [hbands, List.pairwise_cons] at horder
  rw [hbands, hbest]
  refine List.forall_mem_cons.mpr ⟨le_refl _, fun y hy => ?_⟩
  rcases horder.1 y hy with hlt | ⟨heq, -⟩
  · exact hlt.le
  · exact heq.ge

theorem mem_metricConditions (f : Flight) (p : Profile) (d : Direction) (e : Condition) :
    e ∈ f.metricConditions p d ↔ ∃ c ∈ f.candidates.at d, c.stale = false ∧
      ∃ x ∈ allowedBands p f.bands c, (candidateMetric p c x.2).2 = some e := by
  simp only [Flight.metricConditions, List.mem_flatMap, mem_fresh, List.mem_filterMap, and_assoc]

theorem getElem?_efficiency (q : Quality) :
    [0, 12, 18, 28, 40, 56, 76, 96, 124, 156, 190, 228, 268, 310, 352, 396][q.val]? = some (efficiency q) := by
  revert q; decide

/-- Settles O39: the list is a sort of the fresh candidates by best metric, each one's bands a sort of its allowed ones. -/
theorem rankingOrder : Obligations.RankingOrder := by
  refine ⟨fun f p d hcands => ⟨ranked_keyOrder p hcands, fun c => ?_, fun r hr => ?_, mem_metricConditions f p d⟩,
    fun p copies c b q => ⟨rfl, ?_⟩, fun copy => ⟨rfl, offeredTo_far copy⟩, getElem?_efficiency, fun c b =>
      ⟨fun q hq => ?_, fun hq => ?_⟩⟩
  · rw [← and_assoc, ← mem_fresh, ne_eq, ← rankCandidate_eq_none, ← ne_eq, Option.ne_none_iff_exists']
    constructor
    · rintro ⟨r, hr, rfl⟩
      exact ⟨(rankCandidate_of_mem_ranked f p d hr).1, r, (rankCandidate_of_mem_ranked f p d hr).2⟩
    · rintro ⟨hc, r, hr⟩
      exact ⟨r, (mem_ranked f p d).mpr ⟨c, hc, hr⟩, (rankCandidate_eq_some hr).1⟩
  · have hrank := (rankCandidate_of_mem_ranked f p d hr).2
    obtain ⟨-, hperm, horder, x, bs, hbands, hbest⟩ := rankCandidate_eq_some hrank
    exact ⟨fun x => hperm.mem_iff, horder, metric_le_best hrank, x, hbands ▸ List.mem_cons_self, hbest.symm⟩
  · rw [mem_allowedBands, offeredTo_iff, ← derateQuality_val, Fin.ext_iff, eq_comm (a := q.val)]
  · simp only [Context.quality, hq]
  · simp only [Context.quality, hq]

end Sys2Proof.Machine
end

section
/-! The placement engine move by move (R116 to R126), and the laws of the placement in flight (R3, R13, R123, R132). -/
namespace Sys2Proof.Machine

/-! ### One move by its stage -/

/-- The conditions the metrics of a direction give, raised (R101 to R105). -/
def raiseMetrics (f : Flight) (d : Direction) (s : State) : State :=
  (f.metricConditions s.profile d).foldl (fun s c => raiseArithmetic c s) s

theorem raiseMetrics_keeps (f : Flight) (d : Direction) (s : State) :
    Keeps [.inFlight, .flags, .txQueue] s (raiseMetrics f d s) := Keeps.foldl (fun s c => raiseArithmetic_keeps c s) _ s

section
variable {s : State} {f : Flight} (hf : s.flight = some f)

theorem engineMove_of_none (h : s.flight = none) : engineMove s = .ended := by simp [engineMove, h]

include hf

theorem engineMove_rank {d : Direction} (hst : f.stage = .rank d) : engineMove s =
    .quiet ((raiseMetrics f d s).setFlight (some { f with stage := .serve d (f.ranked s.profile d) })) := by
  simp only [engineMove, hf, hst, raiseMetrics]

theorem engineMove_serve_nil {d : Direction} (hst : f.stage = .serve d []) : engineMove s =
    .quiet (s.setFlight (some { f with stage := .walk d (slotsFrom (s.fallbackPtr.at d)) })) := by
  simp only [engineMove, hf, hst]

theorem engineMove_serve_pass {d : Direction} {r : Ranked} {left : List Ranked} (hst : f.stage = .serve d (r :: left))
    (hlay : layRanked (f.grids.at d) d r = none) :
    engineMove s = .quiet (s.setFlight (some { f with stage := .serve d left })) := by
  simp only [engineMove, hf, hst, hlay]

theorem engineMove_serve_full {d : Direction} {r : Ranked} {left : List Ranked} {l : Lay}
    (hst : f.stage = .serve d (r :: left)) (hlay : layRanked (f.grids.at d) d r = some l) (hfull : 384 ≤ s.records.length) :
    engineMove s = .stopped true (stopPlacing f s) := by
  simp only [engineMove, hf, hst, hlay, State.recordsFull, hfull, decide_true, if_true]

theorem engineMove_serve_grant {d : Direction} {r : Ranked} {left : List Ranked} {l : Lay}
    (hst : f.stage = .serve d (r :: left)) (hlay : layRanked (f.grids.at d) d r = some l) (hroom : s.records.length < 384) :
    engineMove s = .granted true (makeGrant f d r.cand l (.serve d left) s) := by
  simp [engineMove, hf, hst, hlay, State.recordsFull, Nat.not_le.mpr hroom]

theorem engineMove_walk_nil_dl (hst : f.stage = .walk .dl []) :
    engineMove s = .quiet (s.setFlight (some { f with stage := .rank .ul })) := by
  simp only [engineMove, hf, hst]

theorem engineMove_walk_nil_ul (hst : f.stage = .walk .ul []) :
    engineMove s = .quiet (s.setFlight (some { f with stage := .ended })) := by
  simp only [engineMove, hf, hst]

/-- A slot of the walk whose stale candidate, if there is one, finds no free unit is passed over. -/
theorem engineMove_walk_pass {d : Direction} {i : Slot} {left : List Slot} (hst : f.stage = .walk d (i :: left))
    (hpass : ∀ c, (f.candidates.at d).find? (fun c => decide (c.slot = i) && c.stale) = some c →
      layFallback (f.grids.at d) f.bands c = none) :
    engineMove s = .quiet (s.setFlight (some { f with stage := .walk d left })) := by
  cases hc : (f.candidates.at d).find? fun c => decide (c.slot = i) && c.stale with
  | none => simp only [engineMove, hf, hst, hc]
  | some c => simp only [engineMove, hf, hst, hc, hpass c hc]

section
variable {d : Direction} {i : Slot} {left : List Slot} {c : Candidate} {l : Lay} (hst : f.stage = .walk d (i :: left))
  (hc : (f.candidates.at d).find? (fun c => decide (c.slot = i) && c.stale) = some c)
  (hlay : layFallback (f.grids.at d) f.bands c = some l)
include hst hc hlay

theorem engineMove_walk_full (hfull : 384 ≤ s.records.length) : engineMove s = .stopped false (stopPlacing f s) := by
  simp only [engineMove, hf, hst, hc, hlay, State.recordsFull, hfull, decide_true, if_true]

theorem engineMove_walk_grant (hroom : s.records.length < 384) : engineMove s =
    .granted false ((makeGrant f d c l (.walk d left) s).setFallbackPtr (s.fallbackPtr.put d (i + 1))) := by
  simp [engineMove, hf, hst, hc, hlay, State.recordsFull, Nat.not_le.mpr hroom]

end

theorem engineMove_ended (hst : f.stage = .ended) : engineMove s = .ended := by simp only [engineMove, hf, hst]

end

theorem makeGrant_flight (f : Flight) (d : Direction) (c : Candidate) (l : Lay) (n : Stage) (s : State) :
    (makeGrant f d c l n s).flight = some (f.laid d (s.profile.orders.at d) c l n) := rfl

theorem stopPlacing_flight (f : Flight) (s : State) : (stopPlacing f s).flight = some { f with stage := .ended } :=
  (raise_keeps _ _).flight_eq (by decide)

/-- What a move makes of the placement in flight. -/
inductive Flight.Moves (p : Profile) (f : Flight) : Flight → Prop where
  | rank {d : Direction} (hst : f.stage = .rank d) : Moves p f { f with stage := .serve d (f.ranked p d) }
  | served {d : Direction} (ptr : Slot) (hst : f.stage = .serve d []) :
      Moves p f { f with stage := .walk d (slotsFrom ptr) }
  | passed {d : Direction} {r : Ranked} {left : List Ranked} (hst : f.stage = .serve d (r :: left)) :
      Moves p f { f with stage := .serve d left }
  | served_grant {d : Direction} {r : Ranked} {left : List Ranked} {l : Lay} (hst : f.stage = .serve d (r :: left))
      (hlay : layRanked (f.grids.at d) d r = some l) : Moves p f (f.laid d (p.orders.at d) r.cand l (.serve d left))
  | uplink (hst : f.stage = .walk .dl []) : Moves p f { f with stage := .rank .ul }
  | examined {d : Direction} {i : Slot} {left : List Slot} (hst : f.stage = .walk d (i :: left)) :
      Moves p f { f with stage := .walk d left }
  | walk_grant {d : Direction} {i : Slot} {left : List Slot} {c : Candidate} {l : Lay}
      (hst : f.stage = .walk d (i :: left))
      (hc : (f.candidates.at d).find? (fun c => decide (c.slot = i) && c.stale) = some c)
      (hlay : layFallback (f.grids.at d) f.bands c = some l) :
      Moves p f (f.laid d (p.orders.at d) c l (.walk d left))
  | ended (hst : f.stage ≠ .ended) : Moves p f { f with stage := .ended }

/-- A move leaves a placement in flight, moved by its stage. -/
theorem flight_moves {s t : State} {f : Flight} (hf : s.flight = some f) (e : (engineMove s).state = some t) :
    ∃ g, t.flight = some g ∧ f.Moves s.profile g := by
  cases hst : f.stage with
  | rank d =>
    rw [engineMove_rank hf hst] at e
    rw [← Option.some.inj e]
    exact ⟨_, rfl, .rank hst⟩
  | serve d left =>
    cases left with
    | nil =>
      rw [engineMove_serve_nil hf hst] at e
      rw [← Option.some.inj e]
      exact ⟨_, rfl, .served _ hst⟩
    | cons r left =>
      cases hlay : layRanked (f.grids.at d) d r with
      | none =>
        rw [engineMove_serve_pass hf hst hlay] at e
        rw [← Option.some.inj e]
        exact ⟨_, rfl, .passed hst⟩
      | some l =>
        rcases Nat.lt_or_ge s.records.length 384 with hroom | hfull
        · rw [engineMove_serve_grant hf hst hlay hroom] at e
          rw [← Option.some.inj e]
          exact ⟨_, makeGrant_flight .., .served_grant hst hlay⟩
        · rw [engineMove_serve_full hf hst hlay hfull] at e
          rw [← Option.some.inj e]
          exact ⟨_, stopPlacing_flight f s, .ended (by rw [hst]; exact Stage.noConfusion)⟩
  | walk d left =>
    cases left with
    | nil =>
      cases d with
      | dl =>
        rw [engineMove_walk_nil_dl hf hst] at e
        rw [← Option.some.inj e]
        exact ⟨_, rfl, .uplink hst⟩
      | ul =>
        rw [engineMove_walk_nil_ul hf hst] at e
        rw [← Option.some.inj e]
        exact ⟨_, rfl, .ended (by rw [hst]; exact Stage.noConfusion)⟩
    | cons i left =>
      by_cases hpass : ∀ c, (f.candidates.at d).find? (fun c => decide (c.slot = i) && c.stale) = some c →
          layFallback (f.grids.at d) f.bands c = none
      · rw [engineMove_walk_pass hf hst hpass] at e
        rw [← Option.some.inj e]
        exact ⟨_, rfl, .examined hst⟩
      · push Not at hpass
        obtain ⟨c, hc, hlay⟩ := hpass
        obtain ⟨l, hlay⟩ := Option.ne_none_iff_exists'.mp hlay
        rcases Nat.lt_or_ge s.records.length 384 with hroom | hfull
        · rw [engineMove_walk_grant hf hst hc hlay hroom] at e
          rw [← Option.some.inj e]
          exact ⟨_, makeGrant_flight .., .walk_grant hst hc hlay⟩
        · rw [engineMove_walk_full hf hst hc hlay hfull] at e
          rw [← Option.some.inj e]
          exact ⟨_, stopPlacing_flight f s, .ended (by rw [hst]; exact Stage.noConfusion)⟩
  | ended =>
    rw [engineMove_ended hf hst] at e
    cases e

/-! ### A lay and its grant -/

/-- The lay is an aligned block of its band, all free, with 1 to L of its units granted. -/
structure Lay.Fits (g : Grid) (l : Lay) : Prop where
  size : l.size ∈ [1, 2, 4, 8]
  count_pos : 1 ≤ l.count
  count_le : l.count ≤ l.size
  aligned : l.base % l.size = 0
  low : 8 * l.band.val ≤ l.base
  high : l.base + l.size ≤ 8 * l.band.val + 8
  free : ∀ j < l.size, isFree g (l.base + j) = true

theorem layRanked_fits {g : Grid} {d : Direction} {r : Ranked} {l : Lay} (heff : ∀ x ∈ r.bands, 0 < efficiency x.2)
    (hbacklog : 0 < r.cand.backlog) (h : layRanked g d r = some l) : l.Fits g := by
  obtain ⟨hband, hsearch, hcount⟩ := layRanked_eq_some h
  obtain ⟨htried, hblock, -⟩ := searchBlock_eq_some hsearch
  have hsize := sizesTried_subset _ htried
  obtain ⟨⟨hmod, hlow, hhigh⟩, hfree, -⟩ := findBlock_eq_some hsize hblock
  have hunits : 1 ≤ unitsNeeded d r.cand.reach r.cand.backlog (efficiency l.quality) :=
    unitsNeeded_pos d r.cand.reach (heff _ hband) hbacklog
  have hpos : ∀ n ∈ [1, 2, 4, 8], 1 ≤ n := by decide
  have hsizepos := hpos _ hsize
  exact ⟨hsize, by omega, by omega, hmod, hlow, hhigh, hfree⟩

/-- The lay of a stale candidate is the lowest free unit offered to its reach (R124, R125). -/
theorem layFallback_eq_some {g : Grid} {copies : Vector BandCopy 6} {c : Candidate} {l : Lay}
    (h : layFallback g copies c = some l) :
    l = { band := bandOf l.base, quality := 1, base := l.base, size := 1, count := 1 } ∧ l.base < 48 ∧
    (copies[bandOf l.base]).offeredTo c.reach = true ∧ isFree g l.base = true ∧
    ∀ j < l.base, isFree g j = true → (copies[bandOf j]).offeredTo c.reach = false := by
  obtain ⟨j, hj, rfl⟩ := Option.map_eq_some_iff.mp h
  obtain ⟨hmem, hp, hlow⟩ := find?_ascending List.pairwise_lt_range hj
  rw [Bool.and_eq_true] at hp
  rw [List.mem_range] at hmem
  refine ⟨rfl, hmem, hp.1, hp.2, fun k hk hfree => ?_⟩
  simpa [hfree] using hlow k (List.mem_range.mpr (hk.trans hmem)) hk

theorem layFallback_fits {g : Grid} {copies : Vector BandCopy 6} {c : Candidate} {l : Lay}
    (h : layFallback g copies c = some l) : l.Fits g := by
  obtain ⟨hl, hlt, -, hfree, -⟩ := layFallback_eq_some h
  have hband : l.band.val = l.base / 8 := by
    rw [hl, bandOf, Fin.val_ofNat]
    dsimp only
    omega
  obtain ⟨hsize, hcount⟩ : l.size = 1 ∧ l.count = 1 := by rw [hl]; exact ⟨rfl, rfl⟩
  refine ⟨by simp [hsize], by omega, by omega, by rw [hsize, Nat.mod_one], by omega, by omega, fun j hj => ?_⟩
  obtain rfl : j = 0 := by omega
  exact hfree

section
variable {g : Grid} {l : Lay} (hl : l.Fits g) (t : Interval) (d : Direction) (o : VisitOrder) (c : Candidate)
include hl

theorem Lay.Fits.offset_lt : startOffset t c.slot l.size < l.size :=
  Nat.mod_lt _ (Nat.lt_of_lt_of_le Nat.one_pos (hl.count_pos.trans hl.count_le))

theorem Lay.Fits.start_val : (l.grant t d o c).start.val = l.base + startOffset t c.slot l.size := by
  have := hl.offset_lt t c
  have := hl.high
  have := l.band.isLt
  exact Nat.mod_eq_of_lt (by omega)

/-- The units of the grant are those the grid is occupied at. -/
theorem Lay.Fits.grant_units : (l.grant t d o c).units = covered o l.base l.size (startOffset t c.slot l.size) l.count := by
  rw [Grant.units, hl.start_val t d o c]
  exact coveredOf_eq o l.count (hl.offset_lt t c) hl.aligned

theorem Lay.Fits.free_of_unit {u : Nat} (hu : u ∈ (l.grant t d o c).units) : isFree g u = true := by
  rw [hl.grant_units] at hu
  obtain ⟨hge, hlt⟩ := mem_covered_bounds o hl.size (hl.offset_lt t c) hl.count_le hu
  have := hl.free (u - l.base) (by omega)
  rwa [Nat.add_sub_cancel' hge] at this

theorem Lay.Fits.shaped : (l.grant t d o c).shaped := by
  refine ⟨hl.size, hl.count_pos, hl.count_le, ?_, ?_, fun u hu => ?_⟩
  · rw [hl.grant_units]; exact covered_nodup o hl.size hl.count_le
  · rw [hl.grant_units]; exact length_covered _ _ _ _ _
  · rw [hl.grant_units] at hu
    obtain ⟨hge, hlt⟩ := mem_covered_bounds o hl.size (hl.offset_lt t c) hl.count_le hu
    have := hl.low
    have := hl.high
    have := l.band.isLt
    exact ⟨by omega, bandOf_eq (b := l.band) (by omega) (by omega)⟩

end

/-- Occupying units sets these alone. -/
theorem getElem?_occupy (g : Grid) (units : List Nat) {u : Nat} (hu : u < 48) :
    (occupy g units)[u]? = if u ∈ units then some .occupied else g[u]? := by
  simp only [occupy, Vector.getElem?_ofFn, hu, dif_pos, List.contains_iff_mem, Fin.getElem_fin]
  split
  · rfl
  · simp [hu]

/-! ### The laws of the placement in flight -/

/-- The laws of the placement in flight but those of its stage. -/
def Flight.placed (k : Nat) (f : Flight) : Prop :=
  (∀ g ∈ f.grants, g.shaped ∧ ∀ u ∈ g.units, (f.grids.at g.dir)[u]? = some .occupied) ∧
  f.grants.Pairwise (fun g h => g.dir = h.dir → ∀ u ∈ g.units, u ∉ h.units) ∧
  (∀ j : Subchannel, soundingUnit k j.val = true → f.grids.ul[j] = .reserved) ∧
  f.grants.Pairwise (fun g h => g.dir = h.dir → g.slot ≠ h.slot) ∧
  (∀ g ∈ f.grants, g.reach = .far → (f.bands[g.band]).own = .held) ∧
  ∀ d, (∀ c ∈ f.candidates.at d, 0 < c.backlog) ∧ (f.candidates.at d).Pairwise fun x y => x.slot < y.slot

theorem gridLaw_iff (s : State) :
    GridLaw s ↔ ∀ f, s.flight = some f → f.placed s.profile.soundingUnits ∧ f.staged := by
  simp only [GridLaw, Flight.placed, and_assoc]

/-- A stage may change: the other laws do not read it. -/
theorem placed_withStage {k : Nat} {f : Flight} (h : f.placed k) (stage : Stage) :
    Flight.placed k { f with stage := stage } := h

/-- A lay that fits, for a candidate with no grant of the direction yet, keeps the laws. -/
theorem placed_laid {k : Nat} {f : Flight} {d : Direction} {c : Candidate} {l : Lay} (o : VisitOrder) (next : Stage)
    (h : f.placed k) (hl : l.Fits (f.grids.at d)) (hnew : ¬ f.grantedTo d c.slot)
    (hfar : c.reach = .far → (f.bands[l.band]).own = .held) : (f.laid d o c l next).placed k := by
  obtain ⟨hshaped, hdisjoint, hsound, hslots, hheld, hcands⟩ := h
  set grant := l.grant f.target d o c with hgrant
  have hgrants : (f.laid d o c l next).grants = f.grants ++ [grant] := rfl
  have hgrid : ∀ e, (f.laid d o c l next).grids.at e =
      if e = d then occupy (f.grids.at d) grant.units else f.grids.at e := by
    intro e
    rw [hgrant, hl.grant_units]
    simp only [Flight.laid, Both.at_put]
    rcases eq_or_ne e d with rfl | he
    · simp
    · simp [he, he.symm]
  have hfree : ∀ u ∈ grant.units, (f.grids.at d)[u]? = some .free := fun u hu =>
    eq_of_beq (hl.free_of_unit f.target d o c hu)
  have hold : ∀ e, ∀ u : Nat, (f.grids.at e)[u]? ≠ some .free → u < 48 →
      ((f.laid d o c l next).grids.at e)[u]? = (f.grids.at e)[u]? := by
    intro e u hu hlt
    rw [hgrid]
    split
    · next he =>
      subst he
      rw [getElem?_occupy _ _ hlt, if_neg fun hm => hu (hfree u hm)]
    · rfl
  refine ⟨fun g hg => ?_, ?_, fun j hj => ?_, ?_, fun g hg hr => ?_, hcands⟩
  · rw [hgrants, List.mem_append, List.mem_singleton] at hg
    rcases hg with hg | rfl
    · refine ⟨(hshaped g hg).1, fun u hu => ?_⟩
      obtain ⟨-, -, -, -, -, hunits⟩ := (hshaped g hg).1
      have hocc := (hshaped g hg).2 u hu
      rw [hold g.dir u (by rw [hocc]; simp) (hunits u hu).1, hocc]
    · have hs := hl.shaped f.target d o c
      obtain ⟨-, -, -, -, -, hunits⟩ := hs
      refine ⟨hl.shaped f.target d o c, fun u hu => ?_⟩
      rw [hgrid, if_pos (show grant.dir = d from rfl), getElem?_occupy _ _ (hunits u hu).1, if_pos hu]
  · rw [hgrants, List.pairwise_append]
    refine ⟨hdisjoint, List.pairwise_singleton _ _, fun g hg h hh hdir u hu hu' => ?_⟩
    obtain rfl := List.mem_singleton.mp hh
    have hocc := (hshaped g hg).2 u hu
    rw [show g.dir = d from hdir, hfree u hu'] at hocc
    cases hocc
  · have hres : (f.grids.at .ul)[j.val]? = some .reserved := by simpa [Both.at] using hsound j hj
    have hkept := hold .ul j.val (by rw [hres]; simp) j.isLt
    rw [hres] at hkept
    simpa [Both.at] using hkept
  · rw [hgrants, List.pairwise_append]
    refine ⟨hslots, List.pairwise_singleton _ _, fun g hg h hh hdir hslot => ?_⟩
    obtain rfl := List.mem_singleton.mp hh
    exact hnew ⟨g, hg, hdir, hslot⟩
  · rw [hgrants, List.mem_append, List.mem_singleton] at hg
    rcases hg with hg | rfl
    · exact hheld g hg hr
    · exact hfar hr

theorem grantedTo_laid {f : Flight} {d : Direction} {o : VisitOrder} {c : Candidate} {l : Lay} {next : Stage} {i : Slot}
    (hold : ¬ f.grantedTo d i) (hne : c.slot ≠ i) : ¬ (f.laid d o c l next).grantedTo d i := by
  rintro ⟨g, hg, hdir, hslot⟩
  rcases List.mem_append.mp hg with hg | hg
  · exact hold ⟨g, hg, hdir, hslot⟩
  · obtain rfl := List.mem_singleton.mp hg
    exact hne hslot

theorem dirs_laid {f : Flight} {d : Direction} {o : VisitOrder} {c : Candidate} {l : Lay} {next : Stage}
    (h : d = .dl → ∀ g ∈ f.grants, g.dir = .dl) (hd : d = .dl) : ∀ g ∈ (f.laid d o c l next).grants, g.dir = .dl := by
  intro g hg
  rcases List.mem_append.mp hg with hg | hg
  · exact h hd g hg
  · obtain rfl := List.mem_singleton.mp hg
    exact hd

/-- Candidates of a direction are told apart by their slots. -/
theorem eq_of_slot_eq {cs : List Candidate} (h : cs.Pairwise fun x y => x.slot < y.slot) {x y : Candidate} (hx : x ∈ cs)
    (hy : y ∈ cs) (hslot : x.slot = y.slot) : x = y := by
  have hnodup : (cs.map (·.slot)).Nodup := (List.pairwise_map.mpr h).imp ne_of_lt
  exact List.inj_on_of_nodup_map hnodup hx hy hslot

/-- No grant of a direction before its ranking. -/
theorem not_grantedTo_of_rank {f : Flight} {d : Direction} (hst : f.stage = .rank d) (h : f.staged) (i : Slot) :
    ¬ f.grantedTo d i := by
  rintro ⟨g, hg, hdir, -⟩
  simp only [Flight.staged, hst] at h
  obtain ⟨hdl, rfl⟩ := h g hg
  rw [hdl] at hdir
  cases hdir

theorem staged_rank {k : Nat} {p : Profile} {f : Flight} {d : Direction} (hst : f.stage = .rank d) (hp : f.placed k)
    (h : f.staged) : Flight.staged { f with stage := .serve d (f.ranked p d) } := by
  have hnone := not_grantedTo_of_rank hst h
  obtain ⟨-, -, -, -, -, hcands⟩ := hp
  simp only [Flight.staged, hst] at h
  refine ⟨fun hd g hg => (h g hg).1, ranked_slots_nodup p (hcands d).2, fun r hr => ?_, fun c _ _ => hnone c.slot⟩
  obtain ⟨hfresh, hrank⟩ := rankCandidate_of_mem_ranked f p d hr
  refine ⟨hfresh, hnone _, fun x hx => ?_⟩
  obtain ⟨-, hperm, -⟩ := rankCandidate_eq_some hrank
  obtain ⟨hoffer, hpos, -⟩ := mem_allowedBands.mp (hperm.mem_iff.mp hx)
  exact ⟨hpos, hoffer⟩

theorem far_held {copies : Vector BandCopy 6} {b : Band} {reach : Reach} (h : (copies[b]).offeredTo reach = true)
    (hr : reach = .far) : (copies[b]).own = .held := by
  rw [hr] at h
  exact (offeredTo_far _).mp h

/-- Each move of the engine keeps the laws. -/
theorem flightLaw_moves {k : Nat} {p : Profile} {f g : Flight} (hp : f.placed k) (hs : f.staged)
    (hm : f.Moves p g) : g.placed k ∧ g.staged := by
  have hcands := hp.2.2.2.2.2
  cases hm with
  | rank hst => exact ⟨placed_withStage hp _, staged_rank hst hp hs⟩
  | @served d ptr hst =>
    simp only [Flight.staged, hst] at hs
    obtain ⟨hdl, -, -, hstale⟩ := hs
    exact ⟨placed_withStage hp _, hdl, slotsFrom_nodup ptr, fun c hc hsl _ => hstale c hc hsl⟩
  | @passed d r left hst =>
    simp only [Flight.staged, hst] at hs
    obtain ⟨hdl, hnodup, hleft, hstale⟩ := hs
    exact ⟨placed_withStage hp _, hdl, (List.nodup_cons.mp hnodup).2, fun r hr => hleft r (List.mem_cons_of_mem _ hr),
      hstale⟩
  | @served_grant d r left l hst hlay =>
    simp only [Flight.staged, hst] at hs
    obtain ⟨hdl, hnodup, hleft, hstale⟩ := hs
    obtain ⟨hfresh, hnot, hbands⟩ := hleft r List.mem_cons_self
    obtain ⟨hmem, hfreshness⟩ := (mem_fresh f d).mp hfresh
    obtain ⟨hhead, htail⟩ := List.nodup_cons.mp hnodup
    have hfits := layRanked_fits (fun x hx => (hbands x hx).1) ((hcands d).1 _ hmem) hlay
    refine ⟨placed_laid _ _ hp hfits hnot (far_held (hbands _ (layRanked_eq_some hlay).1).2), dirs_laid hdl, htail,
      fun x hx => ?_, fun c hc hsl => ?_⟩
    · obtain ⟨hxfresh, hxnot, hxbands⟩ := hleft x (List.mem_cons_of_mem _ hx)
      exact ⟨hxfresh, grantedTo_laid hxnot fun e => hhead (List.mem_map.mpr ⟨x, hx, e.symm⟩), hxbands⟩
    · refine grantedTo_laid (hstale c hc hsl) fun e => ?_
      rw [← eq_of_slot_eq (hcands d).2 hmem hc e, hfreshness] at hsl
      cases hsl
  | uplink hst =>
    simp only [Flight.staged, hst] at hs
    exact ⟨placed_withStage hp _, fun g hg => ⟨hs.1 trivial g hg, rfl⟩⟩
  | @examined d i left hst =>
    simp only [Flight.staged, hst] at hs
    obtain ⟨hdl, hnodup, hstale⟩ := hs
    exact ⟨placed_withStage hp _, hdl, (List.nodup_cons.mp hnodup).2, fun c hc hsl hin =>
      hstale c hc hsl (List.mem_cons_of_mem _ hin)⟩
  | @walk_grant d i left c l hst hc hlay =>
    simp only [Flight.staged, hst] at hs
    obtain ⟨hdl, hnodup, hstale⟩ := hs
    obtain ⟨hhead, htail⟩ := List.nodup_cons.mp hnodup
    have hfound := List.find?_some hc
    simp only [Bool.and_eq_true, decide_eq_true_eq] at hfound
    obtain ⟨hslot, hstl⟩ := hfound
    have hnot := hstale c (List.mem_of_find?_eq_some hc) hstl (hslot ▸ List.mem_cons_self)
    obtain ⟨hl, -, hoffer, -⟩ := layFallback_eq_some hlay
    have hband : l.band = bandOf l.base := by rw [hl]
    have hoffer : (f.bands[l.band]).offeredTo c.reach = true := by simpa only [hband] using hoffer
    refine ⟨placed_laid _ _ hp (layFallback_fits hlay) hnot (far_held hoffer), dirs_laid hdl, htail,
      fun x hx hsl hin => ?_⟩
    exact grantedTo_laid (hstale x hx hsl (List.mem_cons_of_mem _ hin)) fun e => hhead (by rwa [← hslot, e])
  | ended _ => exact ⟨placed_withStage hp _, trivial⟩

/-! ### The laws at every command -/

theorem gridLaw_of_none {s : State} (h : s.flight = none) : GridLaw s := fun f hf => by rw [h] at hf; cases hf

theorem gridLaw_of_keeps {l : List Field} {s t : State} (hk : Keeps l s t)
    (hl : ∀ f ∈ l, f ∉ [Field.flight, .profile]) (h : GridLaw s) : GridLaw t := by
  have hf := hk.flight_eq fun hm => hl _ hm (by decide)
  have hp := hk.profile_eq fun hm => hl _ hm (by decide)
  simpa only [GridLaw, hf, hp] using h

theorem engineMove_gridLaw {s t : State} (h : GridLaw s) (e : (engineMove s).state = some t) : GridLaw t := by
  obtain ⟨f, hf⟩ := flight_of_engineMove e
  obtain ⟨g, hg, hmoves⟩ := flight_moves hf e
  obtain ⟨hp, hs⟩ := (gridLaw_iff s).mp h f hf
  rw [gridLaw_iff, hg, (engineMove_keeps e).profile_eq (by decide)]
  rintro _ ⟨⟩
  exact flightLaw_moves hp hs hmoves

theorem mem_candidates {s : State} {d : Direction} {c : Candidate} :
    c ∈ s.candidates d ↔ s.candidate d c.slot = some c := by
  have hslot : ∀ i, s.candidate d i = some c → i = c.slot := by
    intro i h
    unfold State.candidate at h
    dsimp only at h
    split at h
    · cases h
    · split at h
      · rw [← Option.some.inj h]
      · cases h
  rw [State.candidates, List.mem_filterMap]
  constructor
  · rintro ⟨i, -, h⟩
    rwa [← hslot i h]
  · intro h
    exact ⟨_, mem_allSlots _, h⟩

theorem candidate_eq_some {s : State} {d : Direction} {i : Slot} {c : Candidate} (h : s.candidate d i = some c) :
    c.slot = i ∧ (s.ctx i).tag = some c.tag ∧ (s.ctx i).life = .active ∧ 0 < (s.ctx i).backlog.at d ∧
    c = { slot := i, tag := c.tag, reach := (s.ctx i).reach, cls := (s.ctx i).cls
          q := Vector.ofFn fun b => (s.ctx i).quality b
          average := (s.ctx i).average.at d, backlog := (s.ctx i).backlog.at d
          stale := decide (s.profile.horizon ≤ (s.ctx i).age) } := by
  unfold State.candidate at h
  dsimp only at h
  split at h
  · cases h
  · next g htag =>
    split at h
    · next hact =>
      rw [← Option.some.inj h]
      exact ⟨rfl, htag, hact.1, hact.2, rfl⟩
    · cases h

theorem candidates_ascending (s : State) (d : Direction) : (s.candidates d).Pairwise fun x y => x.slot < y.slot := by
  refine List.pairwise_filterMap.mpr (allSlots_ascending.imp fun {i j} hlt x hx y hy => ?_)
  rw [(candidate_eq_some hx).1, (candidate_eq_some hy).1]
  exact hlt

theorem freshGrids_ul (k : Nat) (j : Subchannel) :
    (freshGrids k).ul[j] = if soundingUnit k j.val = true then .reserved else .free := by simp [freshGrids]

/-- The laws as a placement begins: no grants, and the sounding units reserved. -/
theorem beginPlacement_gridLaw (t : Interval) (s : State) : GridLaw (beginPlacement t s) := by
  have hprofile := (beginPlacement_keeps t s).profile_eq (by decide)
  rw [gridLaw_iff, hprofile]
  rintro _ ⟨⟩
  refine ⟨⟨by simp, .nil, fun j hj => ?_, .nil, by simp, fun d => ?_⟩, by simp [Flight.staged]⟩
  · exact (freshGrids_ul _ j).trans (if_pos hj)
  · have hat : (Both.mk (s.candidates .dl) (s.candidates .ul)).at d = s.candidates d := by cases d <;> rfl
    simp only [hat]
    refine ⟨fun c hc => ?_, candidates_ascending s d⟩
    obtain ⟨-, -, -, hpos, heq⟩ := candidate_eq_some (mem_candidates.mp hc)
    rw [heq]
    exact hpos

theorem completePlacement_flight (s : State) : (completePlacement s).flight = none := by
  unfold completePlacement
  split
  · next h => exact h
  · exact (catchUp_keeps _ _).flight_eq (by decide)

theorem gridLaw_timerLaw : TimerLaw GridLaw where
  frame hk hl _ h :=
    have hread : ∀ f ∈ [Field.flight, .profile], f ∈ timing := by decide
    gridLaw_of_keeps hk (fun f hf hm => hl f hf (hread f hm)) h
  hardwareReset s := gridLaw_of_none rfl
  enterLoading n s _ _ h := gridLaw_of_keeps (enterLoading_keeps n s) (by decide) h
  loadProfile im s _ hq _ := by
    refine gridLaw_of_none ((loadProfile_keeps im s).flight_eq (by decide) |>.trans ?_)
    rw [hq]; rfl
  stationReset s _ _ := gridLaw_of_none rfl
  endListening s _ _ h := h
  beginReset s _ h := h
  closes s _ h := gridLaw_of_keeps (settleCloses_keeps s) (by decide) h
  closeDue t d s _ _ h := gridLaw_of_keeps (timeoutClose_keeps t d _) (by decide)
    (gridLaw_of_keeps (setClosesDue_keeps s _) (by decide) h)
  closeInterval t d c s _ h := gridLaw_of_keeps (closeInterval_keeps t d c s) (by decide) h
  pulse s _ _ _ h := gridLaw_of_keeps (pulseEvent_keeps _) (by decide)
    (gridLaw_of_keeps (setInterval_keeps s _) (by decide) h)
  mismatch s _ _ _ := gridLaw_of_none ((pulseEvent_keeps _).flight_eq (by decide))
  mark s _ _ h := gridLaw_of_keeps (markEvent_keeps _) (by decide) h
  loss s _ _ _ := gridLaw_of_none ((suspend_keeps _).flight_eq (by decide))
  beginPlacement t _ _ _ _ _ _ := beginPlacement_gridLaw t _
  engineMove _ _ _ h e := engineMove_gridLaw h e
  completePlacement s _ _ _ := gridLaw_of_none (completePlacement_flight s)

/-- Settles O60: a move of the engine keeps the laws by its stage, and no other command moves a placement. -/
theorem gridLawKept : Obligations.GridLawKept := fun _ _ hst h e =>
  step_preserved gridLaw_timerLaw.preserved (fun _ _ h => h) hst h e

end Sys2Proof.Machine
end

section
/-! Laws of bands: `BandLaw` lists what is to be shown of a law that reads no more than claim records, neighbour map, FAR
demand, spacing and profile; then every command keeps it (R73 to R95). -/
namespace Sys2Proof.Machine

/-- The fields a law of bands may read. -/
abbrev banding : List Field := [.profile, .claims, .neighbours, .farDemand, .spacing]

/-- A change of a claim record that claims nothing new and stays in its ranges. -/
def OwnClaim.Retreats (c c' : OwnClaim) : Prop :=
  (c'.claimed = true → c.claimed = true) ∧ (c.inRange → c'.inRange)

/-- What is to be shown of a law of bands. -/
structure BandLaw (P : State → Prop) : Prop where
  frame : ∀ {l : List Field} {s t : State}, Keeps l s t → (∀ f ∈ l, f ∉ banding) → P s → P t
  hardwareReset : ∀ s, P (hardwareReset s)
  loadProfile : ∀ im s, s = s.quiet → P s → P (loadProfile im s)
  stationReset : ∀ s, P s → P (stationReset s)
  own : ∀ {b c s}, (s.own b).Retreats c → P s → P (s.putOwn b c)
  claims : ∀ {v : Band → OwnClaim} {s : State}, (∀ b, (s.own b).Retreats (v b)) → P s →
    P (s.setClaims (Vector.ofFn v))
  announce : ∀ b s, s.claimable b = true → s.claimedBands < s.profile.quota → P s →
    P (((s.putOwn b { s.own b with state := .announced, announced := some s.interval, phase := none
                                   outstanding := some s.interval, idle := 0, lastAssert := none }
      ).setSpacing 16).setFarDemand 0)
  demand : ∀ v s, v ≤ 8 → P s → P (s.setFarDemand v)
  spacing : ∀ s, P s → P (s.setSpacing (s.spacing - 1))
  neighbours : ∀ s, P s → P (s.setNeighbours (Vector.ofFn fun b => (s.neighbour b).map PeerEntry.pulsed))
  clear : ∀ b s, P s → P (s.putNeighbour b none)
  record : ∀ b peer s, (s.own b).claimed = false → peer.age = 0 → P s → P (s.putNeighbour b (some peer))
  lose : ∀ {b peer c s}, (s.own b).Retreats c → c.claimed = false → peer.age = 0 → P s →
    P ((s.putNeighbour b (some peer)).putOwn b c)

/-! ### The changes of a claim record -/

section
variable {c : OwnClaim}

theorem OwnClaim.Retreats.refl (c : OwnClaim) : c.Retreats c := ⟨id, id⟩

/-- What the last assert and the outstanding CLAIM hold is not counted. -/
theorem OwnClaim.retreats_of_same {c' : OwnClaim} (hstate : c'.state = c.state) (hann : c'.announced = c.announced)
    (hphase : c'.phase = c.phase) (hback : c'.backoff = c.backoff) (hidle : c'.idle = c.idle) : c.Retreats c' := by
  obtain ⟨state, announced, phase, outstanding, backoff, idle, lastAssert⟩ := c'
  dsimp only at hstate hann hphase hback hidle
  subst hstate hann hphase hback hidle
  exact ⟨id, id⟩

theorem OwnClaim.retreats_withdrawn (c : OwnClaim) {n : Nat} (hn : n ≤ c.backoff ∨ n ≤ 64) :
    c.Retreats { c.withdrawn with backoff := n } := by
  refine ⟨fun h => by simp [OwnClaim.claimed, OwnClaim.withdrawn] at h, fun ⟨_, hback, hidle, _⟩ => ?_⟩
  refine ⟨by simp [OwnClaim.claimed, OwnClaim.withdrawn], ?_, hidle, rfl⟩
  show n ≤ 64
  omega

theorem OwnClaim.retreats_lead (h : c.state = .announced) : c.Retreats { c with outstanding := none, phase := some 8 } := by
  refine ⟨id, fun ⟨hann, hback, hidle, _⟩ => ⟨hann, hback, hidle, ?_⟩⟩
  simp [h]

/-- A HELD band with a count of 1 to 64 until its refresh. -/
theorem OwnClaim.retreats_held (h : c.state = .held) {a : Option Interval} (ha : a ≠ none) (o l : Option Interval)
    {n : Nat} (hn : n ≤ 64) : c.Retreats { c with announced := a, phase := some n, outstanding := o, lastAssert := l } := by
  refine ⟨id, fun ⟨_, hback, hidle, _⟩ => ⟨?_, hback, hidle, ?_⟩⟩
  · simp [OwnClaim.claimed, h, ha]
  · simp [h, hn]

theorem OwnClaim.retreats_leaving (c : OwnClaim) {back idle : Nat} (hb : back ≤ c.backoff ∨ back ≤ 64)
    (hi : idle ≤ c.idle ∨ idle ≤ 128) : c.Retreats { c.leaving with backoff := back, idle := idle } := by
  refine ⟨fun h => by simp [OwnClaim.claimed, OwnClaim.leaving] at h, fun ⟨_, hback, hidle, _⟩ => ?_⟩
  refine ⟨by simp [OwnClaim.claimed, OwnClaim.leaving], ?_, ?_, 4, rfl, le_refl 4⟩
  · show back ≤ 64
    omega
  · show idle ≤ 128
    omega

theorem OwnClaim.retreats_hold (h : c.state = .announced) :
    c.Retreats { c with state := .held, phase := some 64, idle := 0, lastAssert := none } := by
  refine ⟨fun _ => by simp [OwnClaim.claimed, h], fun ⟨hann, hback, _, _⟩ => ?_⟩
  refine ⟨?_, hback, Nat.zero_le _, 64, rfl, le_refl 64⟩
  simpa [OwnClaim.claimed, h] using hann

theorem OwnClaim.retreats_settle (h : c.state = .releasing) : c.Retreats { c with state := .free, phase := none } := by
  refine ⟨fun h => by simp [OwnClaim.claimed] at h, fun ⟨hann, hback, hidle, _⟩ => ⟨?_, hback, hidle, rfl⟩⟩
  simpa [OwnClaim.claimed, h] using hann

theorem OwnClaim.retreats_pulsed (c : OwnClaim) : c.Retreats c.pulsed := by
  refine ⟨id, fun ⟨hann, hback, hidle, hphase⟩ => ⟨hann, (Nat.sub_le _ _).trans hback, hidle, ?_⟩⟩
  have hle : ∀ n, c.pulsed.phase = some n → ∃ m, c.phase = some m ∧ n ≤ m := by
    intro n hn
    simp only [OwnClaim.pulsed] at hn
    split at hn
    · split at hn <;> exact ⟨_, by assumption, by have := Option.some.inj hn; omega⟩
    · cases hn
  have hsome : ∀ m, c.phase = some m → ∃ n, c.pulsed.phase = some n := by
    intro m hm
    simp only [OwnClaim.pulsed, hm]
    split <;> exact ⟨_, rfl⟩
  have hnone : c.phase = none → c.pulsed.phase = none := fun hm => by simp [OwnClaim.pulsed, hm]
  have hstate : c.pulsed.state = c.state := rfl
  rw [hstate]
  cases hst : c.state with
  | free => rw [hst] at hphase; exact hnone hphase
  | announced =>
    rw [hst] at hphase
    intro n hn
    obtain ⟨m, hm, hnm⟩ := hle n hn
    exact hnm.trans (hphase m hm)
  | held =>
    rw [hst] at hphase
    obtain ⟨m, hm, hbound⟩ := hphase
    obtain ⟨n, hn⟩ := hsome m hm
    obtain ⟨m', hm', hnm⟩ := hle n hn
    obtain rfl := Option.some.inj (hm.symm.trans hm')
    exact ⟨n, hn, hnm.trans hbound⟩
  | releasing =>
    rw [hst] at hphase
    obtain ⟨m, hm, hbound⟩ := hphase
    obtain ⟨n, hn⟩ := hsome m hm
    obtain ⟨m', hm', hnm⟩ := hle n hn
    obtain rfl := Option.some.inj (hm.symm.trans hm')
    exact ⟨n, hn, hnm.trans hbound⟩

theorem OwnClaim.retreats_idleAfter (far : Bool) (c : OwnClaim) : c.Retreats (idleAfter far c).1 := by
  have hidle : ∀ n, n ≤ 128 → c.Retreats { c with idle := n } := fun n hn =>
    ⟨id, fun ⟨hann, hback, _, hphase⟩ => ⟨hann, hback, hn, hphase⟩⟩
  unfold idleAfter
  split
  · split
    · exact hidle 0 (Nat.zero_le _)
    · split
      · exact .refl c
      · exact hidle _ (by omega)
  · exact .refl c

theorem OwnClaim.retreats_refreshed (c : OwnClaim) :
    c.Retreats (if c.state = .held then { c with phase := some 1 } else c) := by
  split
  · next h => exact ⟨id, fun ⟨hann, hback, hidle, _⟩ => ⟨hann, hback, hidle, by simp [h]⟩⟩
  · exact .refl c

end

/-! ### The operations of the claim controller -/

namespace BandLaw
variable {P : State → Prop} (h : BandLaw P) {s : State} (hp : P s)
include h hp

theorem claimGone (b : Band) : P (claimGone b s) := by
  unfold Machine.claimGone
  dsimp only
  split
  · exact hp
  · split
    · exact h.own (OwnClaim.retreats_withdrawn _ (.inl (le_refl _))) hp
    · exact h.own (OwnClaim.retreats_of_same rfl rfl rfl rfl rfl) hp

theorem claimSent (b : Band) : P (claimSent b s) := by
  unfold Machine.claimSent
  dsimp only
  split
  · exact hp
  · split
    · next hc => exact h.own (OwnClaim.retreats_lead hc.1) hp
    · exact h.own (OwnClaim.retreats_of_same rfl rfl rfl rfl rfl) hp

theorem reportDropped (o : Owner) : P (reportDropped o s) := by
  cases o with
  | claim b => exact h.claimGone hp b
  | grantList t n => exact h.frame (listDropped_keeps t n s) (by decide) hp
  | bandRelease _ _ => exact hp
  | unreported => exact hp
  | disowned => exact hp

theorem reportRemoved (o : Owner) : P (reportRemoved o s) := by
  cases o with
  | claim b => exact h.claimGone hp b
  | grantList t n => exact h.frame (listWithdrawn_keeps t n s) (by decide) hp
  | bandRelease _ _ => exact hp
  | unreported => exact hp
  | disowned => exact hp

theorem reportSent (o : Owner) : P (reportSent o s) := by
  cases o with
  | claim b => exact h.claimSent hp b
  | grantList t n => exact h.frame (listSent_keeps t n s) (by decide) hp
  | bandRelease _ _ => exact hp
  | unreported => exact hp
  | disowned => exact hp

theorem raise (c : Condition) : P (raise c s) := h.frame (raise_keeps c s) (by decide) hp

theorem offer (x : TxTelegram) : P (offer x s) := by
  unfold Machine.offer
  split
  · split
    · exact h.frame (setTxQueue_keeps s _) (by decide) hp
    · exact h.reportDropped (h.frame (setTxQueue_keeps s _) (by decide) hp) _
    · exact h.reportDropped (h.raise hp _) _
  · exact hp

omit hp in
theorem offers (xs : List TxTelegram) {s : State} (hp : P s) : P (xs.foldl (fun s x => Machine.offer x s) s) := by
  induction xs generalizing s with
  | nil => exact hp
  | cons x xs ih => exact ih (h.offer hp x)

theorem reannounce (b : Band) {c : OwnClaim} (hheld : c.state = .held) (hc : (s.own b).Retreats c) :
    P (reannounce b c s) := by
  refine h.offer (h.own ?_ hp) _
  have hnext := OwnClaim.retreats_held hheld (Option.some_ne_none (cappedAnnouncement s.interval
    (c.announced.getD s.interval))) (some s.interval) c.lastAssert (le_refl 64)
  exact ⟨fun hcl => hc.1 (hnext.1 hcl), fun hr => hnext.2 (hc.2 hr)⟩

theorem refreshBand (b : Band) : P (refreshBand b s) := by
  unfold Machine.refreshBand
  dsimp only
  split
  · next hheld =>
    split
    · refine h.own ⟨id, fun ⟨hann, hback, hidle, _⟩ => ⟨hann, hback, hidle, ?_⟩⟩ hp
      simp [hheld]
    · exact h.reannounce hp b hheld (.refl _)
  · exact hp

theorem releaseBand (b : Band) (q : Bool) {c : OwnClaim} (hc : (s.own b).Retreats c.leaving) :
    P (releaseBand b q c s) :=
  h.offer (h.frame (dropClaim_keeps b _) (by decide) (h.own hc hp)) _

theorem limitClaim (b : Band) : P (limitClaim b s) := by
  unfold Machine.limitClaim
  dsimp only
  split
  · exact hp
  · split
    · exact hp
    · have asked := h.frame (setTxQueue_keeps s (removeTelegrams (fun x => x.owner.isClaimOf b) TxTelegram.marked
        s.txQueue)) (by decide) hp
      split
      · exact h.claimGone asked b
      · exact asked

theorem holdBand (b : Band) : P (holdBand b s) := by
  unfold Machine.holdBand
  dsimp only
  split
  · exact h.own (OwnClaim.retreats_hold (by assumption)) hp
  · exact hp

theorem settleBand (b : Band) : P (settleBand b s) := by
  unfold Machine.settleBand
  dsimp only
  split
  · exact h.own (OwnClaim.retreats_settle (by assumption)) hp
  · exact hp

theorem releaseIdle (b : Band) : P (releaseIdle b s) := by
  unfold Machine.releaseIdle
  dsimp only
  split
  · exact h.releaseBand hp b false (OwnClaim.retreats_leaving (s.own b) (.inl (le_refl _)) (.inr (le_refl 128)))
  · exact hp

theorem sequenceRelease (b : Band) : P (sequenceRelease s b) := by
  unfold Machine.sequenceRelease
  dsimp only
  split
  · exact h.releaseBand hp b true (OwnClaim.retreats_leaving (s.own b) (.inl (le_refl _)) (.inl (le_refl _)))
  · exact hp

theorem decideClaim : P (decideClaim s) := by
  unfold Machine.decideClaim
  split
  · next hcond =>
    split
    · exact hp
    · next b hfind => exact h.offer (h.announce b s (List.find?_some hfind) hcond.2.2.1 hp) _
  · exact hp

theorem keepClaim (b : Band) : P (keepClaim b s) := by
  unfold Machine.keepClaim
  dsimp only
  split
  · next hheld =>
    split
    · exact hp
    · split
      · exact h.own (OwnClaim.retreats_of_same rfl rfl rfl rfl rfl) hp
      · exact h.reannounce hp b hheld (OwnClaim.retreats_of_same rfl rfl rfl rfl rfl)
  all_goals exact hp

theorem loseClaim (b : Band) {peer : PeerEntry} (hage : peer.age = 0) : P (loseClaim b peer s) := by
  have hraised := h.raise hp .claimLost
  have hown : (Machine.raise .claimLost s).own b = s.own b := (raise_keeps _ s).own_eq (by decide) b
  unfold Machine.loseClaim
  dsimp only
  split
  · exact h.frame (dropClaim_keeps b _) (by decide) (h.lose (hown ▸ OwnClaim.retreats_withdrawn _ (.inr (le_refl 64)))
      (by simp [OwnClaim.claimed, OwnClaim.withdrawn]) hage hraised)
  · exact h.offer (h.frame (dropClaim_keeps b _) (by decide) (h.lose (hown ▸
      OwnClaim.retreats_leaving (s.own b) (.inr (le_refl 64)) (.inl (le_refl _)))
      (by simp [OwnClaim.claimed, OwnClaim.leaving]) hage hraised)) _
  · next hst => exact h.record b peer _ (by rw [hown]; simp [OwnClaim.claimed, hst]) hage hraised
  · next hst => exact h.record b peer _ (by rw [hown]; simp [OwnClaim.claimed, hst]) hage hraised

theorem hearClaim (source : Station) (b : Band) (a : Interval) : P (hearClaim source b a s) := by
  unfold Machine.hearClaim
  dsimp only
  split
  · split
    · exact h.keepClaim hp b
    · exact h.loseClaim hp b rfl
  · next hcl =>
    have hcl : (s.own b).claimed = false := by simpa using hcl
    unfold recordPeer
    split
    · exact h.record b _ s hcl rfl hp
    · split
      · exact h.record b _ s hcl rfl hp
      · exact hp

theorem hearRelease (source : Station) (b : Band) : P (hearRelease source b s) := by
  unfold Machine.hearRelease
  split
  · exact hp
  · split
    · exact h.clear b s hp
    · exact hp

/-! ### The commands -/

theorem endSequence : P (endSequence s) := endSequence_kept (h.stationReset s hp) hp

theorem beginSequence : P (beginSequence s) := by
  have fold : ∀ (bs : List Band) (s : State), P s → P (bs.foldl Machine.sequenceRelease s) := by
    intro bs
    induction bs with
    | nil => exact fun _ hp => hp
    | cons b bs ih => exact fun s hp => ih _ (h.sequenceRelease hp b)
  unfold Machine.beginSequence
  split
  · exact hp
  · exact h.endSequence (fold _ _ (h.frame (setResetSeq_keeps s _) (by decide) hp))

/-- A release of a context touches bands by the fate of telegrams alone. -/
theorem releaseContext (i : Slot) (r : ReleaseReason) : P (releaseContext i r s) := by
  unfold Machine.releaseContext
  split
  · exact hp
  · next g _ =>
    have freed := h.frame (((putTag_keeps _ g ⟨none, 64⟩).mono (l' := [.tags, .records, .contexts]) (by decide)).andThen
      (orphanRecords_keeps i g _) (by decide) |>.andThen (putCtx_keeps _ i Context.free) (by decide)) (by decide)
      (h.offer hp (telegram .releaseNotice s.profile.partner (releaseNoticePayload g r) .unreported))
    dsimp only
    split
    · exact h.raise freed _
    · exact freed

theorem writeAndClassify (i : Slot) (c : Context) : P (writeAndClassify i c s) :=
  h.frame (writeAndClassify_keeps i c s) (by decide) hp

theorem pulseSlot (i : Slot) : P (pulseSlot i s) := by
  unfold Machine.pulseSlot
  split
  · exact h.frame (putCtx_keeps s _ _) (by decide) hp
  · exact h.frame (putCtx_keeps s _ _) (by decide) hp
  · exact h.frame (putCtx_keeps s _ _) (by decide) hp
  · exact h.frame (putCtx_keeps s _ _) (by decide) hp
  · exact h.releaseContext hp _ _

theorem perform (d : Due) : P (perform d s) := by
  cases d with
  | admissionHoldEnd i => exact h.pulseSlot hp i
  | silenceTimeout i => exact h.pulseSlot hp i
  | dormancy i => exact h.pulseSlot hp i
  | quarantineEnd g => exact h.frame (putTag_keeps s g _) (by decide) hp
  | soundPendingExpiry i => exact h.frame (putCtx_keeps s i _) (by decide) hp
  | bandHeld b => exact h.holdBand hp b
  | refreshClaim b => exact h.refreshBand hp b
  | settleEnd b => exact h.settleBand hp b
  | claimTransmitLimit b => exact h.limitClaim hp b
  | lastAssertExpiry b => exact h.own (OwnClaim.retreats_of_same rfl rfl rfl rfl rfl) hp
  | neighbourEntryExpiry b => exact h.clear b s hp
  | listeningEnd =>
    change P (endListening s)
    unfold endListening
    split
    · exact h.frame (setStation_keeps _ _) (by decide) (h.frame (setListening_keeps s 0) (by decide) hp)
    · exact hp
  | resetSequenceTimeout => exact h.stationReset s hp
  | idleRelease b => exact h.releaseIdle hp b
  | newClaim => exact h.decideClaim hp

theorem pulseClaims : P (pulseClaims s) :=
  h.spacing _ (h.neighbours _ (h.claims (fun _ => OwnClaim.retreats_pulsed _) hp))

theorem pulseEvent : P (pulseEvent s) := by
  have contexts := h.frame (setContexts_keeps s (Vector.ofFn fun i => (s.ctx i).pulsed s.profile)) (by decide) hp
  have tags := h.frame (setTags_keeps _ (Vector.ofFn fun g => (s.tagEntry g).pulsed)) (by decide) contexts
  have finish : ∀ u v, P u → P ((pulseWork (pulseStation u)).setAgenda v) := fun u v hu =>
    h.frame (setAgenda_keeps _ v) (by decide) (h.frame (pulseWork_keeps _) (by decide)
      (h.frame (pulseStation_keeps u) (by decide) hu))
  rw [pulseEvent_eq]
  exact finish _ _ (h.pulseClaims tags)

theorem timingFault : P (timingFault s) :=
  h.claims (fun b => OwnClaim.retreats_refreshed _) (h.frame (abandonPlacement_keeps _) (by decide)
    (h.frame (discardRecords_keeps _) (by decide) (h.raise hp _)))

theorem composePlacement (f : Flight) : P (composePlacement f s) := by
  have handed : P (handOver f.target (composedList s f) s) := by
    refine h.offers _ (h.frame (((setRecords_keeps s _).mono (l' := [.records, .register, .openIntervals])
      (by decide)).andThen (setRegister_keeps _ _) (by decide) |>.andThen (setOpenIntervals_keeps _ _) (by decide))
      (by decide) hp)
  have claimed : P (claimCompletion (f.unmetFar s) (farOnBand (composedList s f))
      (handOver f.target (composedList s f) s)) := by
    unfold claimCompletion
    dsimp only
    have hle : (if f.unmetFar s = true then min 8 ((handOver f.target (composedList s f) s).farDemand + 1) else 0) ≤ 8 := by
      split <;> omega
    have counted := h.claims (fun b => OwnClaim.retreats_idleAfter (farOnBand (composedList s f) b) _)
      (h.demand _ _ hle handed)
    split
    · exact h.decideClaim counted
    · exact h.frame (setAgenda_keeps _ _) (by decide) counted
  exact h.frame ((((setCause_keeps _ _).mono (l' := [.cause, .inFlight, .flight]) (by decide)).andThen
    (setInFlight_keeps _ _) (by decide)).andThen (setFlight_keeps _ _) (by decide)) (by decide) claimed

theorem completePlacement : P (completePlacement s) := by
  unfold Machine.completePlacement
  split
  · exact hp
  · exact h.frame (catchUp_keeps _ _) (by decide) (h.composePlacement hp _)

theorem finishFrame : P (finishFrame s) := by
  unfold Machine.finishFrame
  split
  · exact hp
  · exact h.endSequence (h.reportSent (h.frame (clearWire_keeps s) (by decide) hp) _)

theorem abandonFrame : P (abandonFrame s) := by
  have cleared := h.frame (clearWire_keeps s) (by decide) hp
  unfold Machine.abandonFrame
  split
  · exact hp
  · split
    · exact h.endSequence (h.reportRemoved cleared _)
    · split
      · exact h.endSequence (h.reportDropped (h.raise cleared _) _)
      · exact h.frame (setTxQueue_keeps s _) (by decide) hp

theorem takeAttach (a : AttachReport) : P (takeAttach a s) := by
  have refused : ∀ r, P (refuseAttach a.identity r s) := by
    intro r
    cases r with
    | rangeOut => exact h.raise (h.offer hp _) _
    | tableFull => exact h.raise (h.offer hp _) _
  unfold Machine.takeAttach
  split
  · exact refused _
  · split
    · next i _ =>
      have written := h.writeAndClassify hp i ((s.ctx i).reattached a)
      dsimp only
      split
      · exact h.offer written _
      · exact written
    · split
      · next i g _ =>
        have written := h.frame (((putTag_keeps s g ⟨some i, 0⟩).mono (l' := [.tags, .tagPtr, .contexts])
          (by decide)).andThen (setTagPtr_keeps _ (g + 1)) (by decide) |>.andThen (putCtx_keeps _ i
          (admittedContext s.profile s.interval g a)) (by decide)) (by decide) hp
        exact h.offer (h.offer written _) _
      · exact refused _

theorem applyQuality (r : QualityReport) (i : Slot) : P (applyQuality r i s) := by
  unfold Machine.applyQuality
  dsimp only
  split
  · split
    · exact h.writeAndClassify hp _ _
    · exact h.releaseContext (h.frame (putCtx_keeps s _ _) (by decide) hp) _ _
  · exact h.writeAndClassify hp _ _

theorem applyRange (r : RangeReport) (i : Slot) : P (applyRange r i s) := by
  unfold Machine.applyRange
  dsimp only
  split
  · exact h.writeAndClassify hp _ _
  · exact h.releaseContext (h.frame (putCtx_keeps s _ _) (by decide) hp) _ _

theorem takeAdmit (source : Station) (a : AdmitTelegram) : P (takeAdmit source a s) := by
  unfold Machine.takeAdmit
  split
  · exact hp
  · split
    · exact hp
    · dsimp only
      split
      · exact h.offer hp _
      · exact h.releaseContext hp _ _

omit hp

/-- Every command keeps such a law. -/
theorem preserved : Preserved P where
  hardwareReset := h.hardwareReset
  enterLoading n s _ _ hp := h.frame (enterLoading_keeps n s) (by decide) hp
  loadProfile im s _ hq hp := h.loadProfile im s hq hp
  setAgenda v s _ hp := h.frame (setAgenda_keeps s v) (by decide) hp
  setDeadlinesDue v s _ hp := h.frame (setDeadlinesDue_keeps s v) (by decide) hp
  perform d _ _ hp := h.perform hp d
  closes s _ hp := h.frame (settleCloses_keeps s) (by decide) hp
  closeDue t d s _ _ hp := h.frame (timeoutClose_keeps t d _) (by decide) (h.frame (setClosesDue_keeps s _) (by decide) hp)
  deadline t s _ hp := h.frame (deadline_keeps t s) (by decide) hp
  pulse s _ _ _ hp := h.pulseEvent (h.frame (setInterval_keeps s _) (by decide) hp)
  mismatch s _ _ hp := h.pulseEvent (h.frame (setInterval_keeps _ _) (by decide) (h.timingFault hp))
  mark s _ _ hp := h.frame (markEvent_keeps _) (by decide) (h.frame (setSynced_keeps _ _) (by decide)
    (h.frame (setInterval_keeps s _) (by decide) hp))
  loss s _ _ hp := h.frame (suspend_keeps _) (by decide) (h.frame (setSynced_keeps _ _) (by decide) (h.timingFault hp))
  beginPlacement t later s _ _ _ hp := h.frame (beginPlacement_keeps t _) (by decide)
    (h.frame (setPlacementsDue_keeps s later) (by decide) hp)
  engineMove _ _ _ hp e := h.frame (engineMove_keeps e) (by decide) hp
  completePlacement _ _ _ hp := h.completePlacement hp
  receive x s _ hp := h.frame (receive_keeps x s) (by decide) hp
  takeRx _ rest s _ _ hp := h.frame (setRxBuffer_keeps s rest) (by decide) hp
  beginWire s _ _ hp := h.frame (setTxQueue_keeps s _) (by decide) hp
  finishFrame _ _ hp := h.finishFrame hp
  abandonFrame _ _ hp := h.abandonFrame hp
  raise c _ _ hp := h.raise hp c
  takeAttach a _ _ hp := h.takeAttach hp a
  releaseContext i r _ _ hp := h.releaseContext hp i r
  applyQuality r i _ _ _ hp := h.applyQuality hp r i
  applyRange r i _ _ _ hp := h.applyRange hp r i
  applyBuffer r i s _ _ hp := h.frame (applyBuffer_keeps r i s) (by decide) hp
  takeUsage u s _ hp := h.frame (takeUsage_keeps u s) (by decide) hp
  hearClaim src b a _ _ hp := h.hearClaim hp src b a
  hearRelease src b _ _ hp := h.hearRelease hp src b
  takeAdmit src a _ _ hp := h.takeAdmit hp src a
  offerStatus p _ _ hp := h.offer hp _
  setFreeCount v s _ hp := h.frame (setFreeCount_keeps s v) (by decide) hp
  retrainTag g s _ hp := h.frame (retrainTag_keeps g s) (by decide) hp
  clearFlags m s _ hp := h.frame (setFlags_keeps s _) (by decide) hp
  beginSequence _ _ hp := h.beginSequence hp

end BandLaw

/-! ### The law of the map, and the quota (R74, R78) -/

theorem own_setClaims_ofFn (s : State) (v : Band → OwnClaim) (b : Band) : (s.setClaims (Vector.ofFn v)).own b = v b := by
  simp [State.own]

theorem neighbour_setNeighbours_ofFn (s : State) (v : Band → Option PeerEntry) (b : Band) :
    (s.setNeighbours (Vector.ofFn v)).neighbour b = v b := by
  simp [State.neighbour]

theorem mapLaw_bandLaw : BandLaw MapLaw where
  frame hk hl hm b := by
    rw [hk.own_eq fun h => hl _ h (by decide), hk.neighbour_eq fun h => hl _ h (by decide)]
    exact hm b
  hardwareReset s b := by simp [hardwareReset, State.reset, State.neighbour]
  loadProfile im s hq _ b := by
    rw [(loadProfile_keeps im s).neighbour_eq (by decide), hq]
    simp [State.quiet, State.reset, State.neighbour]
  stationReset s _ b := by simp [stationReset, State.reset, State.neighbour]
  own {b c s} hc hm b' := by
    rw [putOwn_own, putOwn_neighbour]
    split
    · next e => subst e; exact fun h => hm b (hc.1 h)
    · exact hm b'
  claims hc hm b := by
    rw [own_setClaims_ofFn]
    exact fun h => hm b ((hc b).1 h)
  announce b s hclaim _ hm b' := by
    rw [setFarDemand_own, setSpacing_own, putOwn_own]
    split
    · next e =>
      subst e
      simp only [State.claimable, Bool.and_eq_true, Option.isNone_iff_eq_none] at hclaim
      exact fun _ => hclaim.2
    · exact hm b'
  demand _ _ _ hm := hm
  spacing _ hm := hm
  neighbours s hm b hb := by
    rw [neighbour_setNeighbours_ofFn, hm b hb]
    rfl
  clear b s hm b' hb := by
    rw [putNeighbour_neighbour]
    split
    · rfl
    · exact hm b' hb
  record b peer s hcl _ hm b' hb := by
    rw [putNeighbour_neighbour]
    split
    · next e =>
      subst e
      rw [putNeighbour_own, hcl] at hb
      cases hb
    · exact hm b' hb
  lose {b peer c s} _ hcl _ hm b' hb := by
    rw [putOwn_own] at hb
    rw [putOwn_neighbour, putNeighbour_neighbour]
    split at hb
    · rw [hcl] at hb
      cases hb
    · next hne => rw [if_neg hne]; exact hm b' hb

theorem claimedBands_le_of_imp {s t : State} (h : ∀ b, (t.own b).claimed = true → (s.own b).claimed = true) :
    t.claimedBands ≤ s.claimedBands :=
  (List.monotone_filter_right allBands h).length_le

/-- One more band claimed is one more in the count. -/
theorem claimedBands_putOwn_le (s : State) (b : Band) (c : OwnClaim) :
    (s.putOwn b c).claimedBands ≤ s.claimedBands + 1 := by
  have hsub : allBands.filter (fun b' => ((s.putOwn b c).own b').claimed) ⊆
      b :: allBands.filter fun b' => (s.own b').claimed := by
    intro b' hb'
    rw [List.mem_filter] at hb'
    rw [List.mem_cons, List.mem_filter]
    by_cases e : b = b'
    · exact .inl e.symm
    · rw [putOwn_own_other _ _ _ e] at hb'
      exact .inr hb'
  exact (List.subperm_of_subset ((List.nodup_finRange 6).filter _) hsub).length_le

theorem claimedBands_eq_zero {s : State} (h : ∀ b, (s.own b).claimed = false) : s.claimedBands = 0 := by
  simp [State.claimedBands, h]

theorem quotaLaw_bandLaw : BandLaw QuotaLaw where
  frame hk hl hq := by
    have hp := hk.profile_eq fun h => hl _ h (by decide)
    rw [QuotaLaw, hp]
    refine (claimedBands_le_of_imp fun b hb => ?_).trans hq
    rwa [hk.own_eq fun h => hl _ h (by decide)] at hb
  hardwareReset s := (claimedBands_eq_zero fun b => by
    simp [hardwareReset, State.reset, State.own, OwnClaim.claimed, OwnClaim.reset]).le.trans (Nat.zero_le _)
  loadProfile im s hq _ := (claimedBands_eq_zero fun b => by
    rw [(loadProfile_keeps im s).own_eq (by decide), hq]
    simp [State.quiet, State.reset, State.own, OwnClaim.claimed, OwnClaim.reset]).le.trans (Nat.zero_le _)
  stationReset s _ := (claimedBands_eq_zero fun b => by
    simp [stationReset, State.reset, State.own, OwnClaim.claimed, OwnClaim.reset]).le.trans (Nat.zero_le _)
  own {b c s} hc hq := (claimedBands_le_of_imp fun b' hb' => by
    rw [putOwn_own] at hb'
    split at hb'
    · next e => subst e; exact hc.1 hb'
    · exact hb').trans hq
  claims hc hq := (claimedBands_le_of_imp fun b hb => (hc b).1 (by rwa [own_setClaims_ofFn] at hb)).trans hq
  announce b s _ hlt _ := (claimedBands_putOwn_le s b _).trans hlt
  demand _ _ _ hq := hq
  spacing _ hq := hq
  neighbours _ hq := hq
  clear _ _ hq := hq
  record _ _ _ _ _ hq := hq
  lose {b peer c s} hc _ _ hq := (claimedBands_le_of_imp fun b' hb' => by
    rw [putOwn_own] at hb'
    split at hb'
    · next e => subst e; exact hc.1 hb'
    · exact hb').trans hq

/-- Settles O57: a band is claimed anew in the claim decision alone, which asks for no entry and for room under the quota;
an entry is written for a band not claimed, or given up with it. -/
theorem claimLawsKept : Obligations.ClaimLawsKept := fun _ _ hst hm e =>
  ⟨step_preserved mapLaw_bandLaw.preserved (fun _ _ h => h) hst hm e,
    fun hq => step_preserved quotaLaw_bandLaw.preserved (fun _ _ h => h) hst hq e⟩

/-! ### The ranges of the claim controller's values (R73, R74, R76, R78) -/

/-- Claim records, entry ages, FAR demand and spacing in their ranges. -/
def BandRanges (s : State) : Prop :=
  (∀ b, (s.own b).inRange) ∧ (∀ b e, s.neighbour b = some e → e.age ≤ 191) ∧ s.farDemand ≤ 8 ∧ s.spacing ≤ 16

theorem inRange_reset : OwnClaim.reset.inRange := by simp [OwnClaim.inRange, OwnClaim.reset, OwnClaim.claimed]

theorem inRange_announced {c : OwnClaim} (a : Interval) (hc : c.inRange) :
    OwnClaim.inRange { c with state := .announced, announced := some a, phase := none, outstanding := some a, idle := 0
                              lastAssert := none } :=
  ⟨by simp [OwnClaim.claimed], hc.2.1, Nat.zero_le _, by simp⟩

theorem bandRanges_reset {s : State} (hown : s.claims = Vector.replicate 6 OwnClaim.reset)
    (hmap : s.neighbours = Vector.replicate 6 none) (hfar : s.farDemand = 0) (hspacing : s.spacing = 0) :
    BandRanges s := by
  refine ⟨fun b => ?_, fun b e he => ?_, by omega, by omega⟩
  · simpa [State.own, hown] using inRange_reset
  · simp [State.neighbour, hmap] at he

theorem bandRanges_bandLaw : BandLaw BandRanges where
  frame hk hl := by
    rintro ⟨h1, h2, h3, h4⟩
    refine ⟨fun b => ?_, fun b e => ?_, ?_, ?_⟩
    · rw [hk.own_eq fun h => hl _ h (by decide)]; exact h1 b
    · rw [hk.neighbour_eq fun h => hl _ h (by decide)]; exact h2 b e
    · rwa [hk.farDemand_eq fun h => hl _ h (by decide)]
    · rwa [hk.spacing_eq fun h => hl _ h (by decide)]
  hardwareReset s := bandRanges_reset rfl rfl rfl rfl
  loadProfile im s hq _ := by
    have hk := loadProfile_keeps im s
    refine bandRanges_reset ((hk.claims_eq (by decide)).trans ?_) ((hk.neighbours_eq (by decide)).trans ?_)
      ((hk.farDemand_eq (by decide)).trans ?_) ((hk.spacing_eq (by decide)).trans ?_) <;> rw [hq] <;> rfl
  stationReset s _ := bandRanges_reset rfl rfl rfl rfl
  own {b c s} hc h := by
    refine ⟨fun b' => ?_, h.2.1, h.2.2⟩
    rw [putOwn_own]
    split
    · exact hc.2 (h.1 b)
    · exact h.1 b'
  claims hc h := ⟨fun b => by rw [own_setClaims_ofFn]; exact (hc b).2 (h.1 b), h.2.1, h.2.2⟩
  announce b s _ _ h := by
    refine ⟨fun b' => ?_, h.2.1, Nat.zero_le _, le_refl 16⟩
    rw [setFarDemand_own, setSpacing_own, putOwn_own]
    split
    · exact inRange_announced s.interval (h.1 b)
    · exact h.1 b'
  demand v s hv h := ⟨h.1, h.2.1, hv, h.2.2.2⟩
  spacing s h := ⟨h.1, h.2.1, h.2.2.1, (Nat.sub_le _ _).trans h.2.2.2⟩
  neighbours s h := by
    refine ⟨h.1, fun b e he => ?_, h.2.2⟩
    rw [neighbour_setNeighbours_ofFn] at he
    obtain ⟨e', he', rfl⟩ := Option.map_eq_some_iff.mp he
    have hold := h.2.1 b e' he'
    unfold PeerEntry.pulsed
    split
    · exact hold
    · show e'.age + 1 ≤ 191
      omega
  clear b s h := by
    refine ⟨h.1, fun b' e he => ?_, h.2.2⟩
    rw [putNeighbour_neighbour] at he
    split at he
    · cases he
    · exact h.2.1 b' e he
  record b peer s _ hage h := by
    refine ⟨h.1, fun b' e he => ?_, h.2.2⟩
    rw [putNeighbour_neighbour] at he
    split at he
    · rw [← Option.some.inj he, hage]; exact Nat.zero_le _
    · exact h.2.1 b' e he
  lose {b peer c s} hc _ hage h := by
    refine ⟨fun b' => ?_, fun b' e he => ?_, h.2.2⟩
    · rw [putOwn_own]
      split
      · exact hc.2 (h.1 b)
      · exact h.1 b'
    · rw [putOwn_neighbour, putNeighbour_neighbour] at he
      split at he
      · rw [← Option.some.inj he, hage]; exact Nat.zero_le _
      · exact h.2.1 b' e he

end Sys2Proof.Machine
end

section
/-! Laws of what is stored: `StoreLaw` lists what is to be shown of a law that reads no more than contexts, tags, records,
queue and receive buffer; then every command keeps it. -/
namespace Sys2Proof.Machine

/-- The fields a law of what is stored may read. -/
abbrev storing : List Field := [.profile, .txQueue, .rxBuffer, .records, .contexts, .tags]

/-- A change of a context that leaves who holds it and what is pending alone and stays in its ranges. -/
def Context.Like (p : Profile) (c c' : Context) : Prop :=
  c'.tag = c.tag ∧ c'.identity = c.identity ∧ c'.inUse = c.inUse ∧ c'.pending = c.pending ∧
    (p.inRange → c.inRange p → c'.inRange p)

/-- A telegram not yet tried. -/
def TxTelegram.Fresh (x : TxTelegram) : Prop := x.attempts = 0 ∧ x.onWire = false

/-- What is to be shown of a law of what is stored. -/
structure StoreLaw (P : State → Prop) : Prop where
  frame : ∀ {l : List Field} {s t : State}, Keeps l s t → (∀ f ∈ l, f ∉ storing) → P s → P t
  hardwareReset : ∀ s, P (hardwareReset s)
  loadProfile : ∀ im s, s = s.quiet → P s → P (loadProfile im s)
  stationReset : ∀ s, P s → P (stationReset s)
  raise : ∀ c s, P s → P (raise c s)
  queued : ∀ x q s, x.Fresh → (admitToQueue s.txQueue x = .queued q ∨ ∃ v, admitToQueue s.txQueue x = .evicted q v) →
    P s → P (s.setTxQueue q)
  remove : ∀ p f s, (∀ x : TxTelegram, (f x).attempts = x.attempts ∧ (f x).onWire = x.onWire) → P s →
    P (s.setTxQueue (removeTelegrams p f s.txQueue))
  clearWire : ∀ s, P s → P s.clearWire
  beginWire : ∀ s, s.wire = none → P s → P (s.setTxQueue (updateFirst
    (fun x => x.kind.priority == firstClass s.txQueue) (fun x => { x with onWire := true }) s.txQueue))
  retry : ∀ s x, s.wire = some x → x.attempts + 1 < 3 → P s → P (s.setTxQueue (updateFirst (·.onWire)
    (fun x => { x with attempts := x.attempts + 1, onWire := false }) s.txQueue))
  receive : ∀ x s, P s → P (receive x s)
  takeRx : ∀ x rest s, s.rxBuffer = x :: rest → P s → P (s.setRxBuffer rest)
  rollback : ∀ p s, P s → P (rollbackWhere p s)
  close : ∀ t d c s, P s → P (closeInterval t d c s)
  discard : ∀ s, P s → P (discardRecords s)
  usage : ∀ t d e s, P s → P (applyUsage t d s e)
  carry : ∀ t es s, P s → P (s.setRecords (carryRecords s t es))
  put : ∀ {i c s}, (s.ctx i).Like s.profile c → P s → P (s.putCtx i c)
  puts : ∀ {v : Slot → Context} {s : State}, (∀ i, (s.ctx i).Like s.profile (v i)) → P s →
    P (s.setContexts (Vector.ofFn v))
  grant : ∀ t g n s, s.records.length < 384 → s.slotOf g.tag = some g.slot → P s → P (recordGrant t g n s)
  free : ∀ i g s, (s.ctx i).tag = some g → P s → P ((orphanRecords i g (s.putTag g ⟨none, 64⟩)).putCtx i Context.free)
  newcomer : ∀ a i g s, s.room = some (i, g) → s.holder a.identity = none → a.delay ≤ s.profile.taLimit → P s →
    P (((s.putTag g ⟨some i, 0⟩).setTagPtr (g + 1)).putCtx i (admittedContext s.profile s.interval g a))
  release : ∀ g s, P s → P (s.putTag g { s.tagEntry g with quarantine := 0 })
  count : ∀ s, P s → P (s.setTags (Vector.ofFn fun g => (s.tagEntry g).pulsed))

/-! ### The changes of a context -/

namespace Context
variable {p : Profile} {c : Context}

theorem Like.refl (p : Profile) (c : Context) : c.Like p c := ⟨rfl, rfl, rfl, rfl, fun _ h => h⟩

theorem Like.trans {c' c'' : Context} (h : c.Like p c') (h' : c'.Like p c'') : c.Like p c'' :=
  ⟨h'.1.trans h.1, h'.2.1.trans h.2.1, h'.2.2.1.trans h.2.2.1, h'.2.2.2.1.trans h.2.2.2.1,
    fun hp hc => h'.2.2.2.2 hp (h.2.2.2.2 hp hc)⟩

theorem like_enterRecovery (h : c.inUse = true) : c.Like p c.enterRecovery := by
  refine ⟨rfl, rfl, ?_, rfl, fun _ ⟨h1, h2, h3, h4, h5, _, _, h8, _⟩ =>
    ⟨h1, h2, h3, h4, h5, Nat.zero_le _, Nat.zero_le _, h8, Nat.zero_le _⟩⟩
  rw [h]; rfl

theorem like_leaveRecovery (h : c.inUse = true) : c.Like p c.leaveRecovery := by
  refine ⟨rfl, rfl, ?_, rfl, fun _ ⟨h1, h2, h3, h4, h5, _, _, h8, h9⟩ =>
    ⟨h1, h2, h3, h4, h5, Nat.zero_le _, Nat.zero_le _, h8, h9⟩⟩
  rw [h]; rfl

theorem like_withReach (reach : Reach) : c.Like p { c with reach := reach } := ⟨rfl, rfl, rfl, rfl, fun _ h => h⟩

theorem like_withTa {ta : Nat} (h : ta ≤ p.taLimit) : c.Like p { c with ta := ta } :=
  ⟨rfl, rfl, rfl, rfl, fun _ ⟨h1, h2, _, hrest⟩ => ⟨h1, h2, h, hrest⟩⟩

theorem like_withSilence {n : Nat} (h : n ≤ 4000) : c.Like p { c with silence := n } :=
  ⟨rfl, rfl, rfl, rfl, fun _ ⟨h1, h2, h3, h4, h5, _, hrest⟩ => ⟨h1, h2, h3, h4, h5, h, hrest⟩⟩

theorem like_withDormancy {n : Nat} (h : p.inRange → n ≤ 4000) : c.Like p { c with dormancy := n } :=
  ⟨rfl, rfl, rfl, rfl, fun hp ⟨h1, h2, h3, h4, h5, h6, _, hrest⟩ => ⟨h1, h2, h3, h4, h5, h6, h hp, hrest⟩⟩

theorem like_withSound {o : Option Nat} (h : ∀ n, o = some n → (∀ m, c.sound = some m → m ≤ 8) → n ≤ 8) :
    c.Like p { c with sound := o } :=
  ⟨rfl, rfl, rfl, rfl, fun _ ⟨h1, h2, h3, h4, h5, hrest⟩ => ⟨h1, h2, h3, h4, fun n hn => h n hn h5, hrest⟩⟩

theorem like_heard : c.Like p c.heard := by
  unfold heard
  split
  · exact .refl p c
  · exact like_withSilence (Nat.zero_le _)

theorem like_withQuality (r : QualityReport) : c.Like p (c.withQuality r) := by
  refine (like_heard (p := p) (c := c)).trans ⟨rfl, rfl, rfl, rfl, fun _ ⟨h1, h2, h3, _, _, hrest⟩ =>
    ⟨h1, h2, h3, Nat.zero_le _, by simp [withQuality], hrest⟩⟩

theorem inUse_of_life {life : Life} (h : c.life = life) (hne : life ≠ .free) : c.inUse = true := by
  simp [inUse, h, hne]

theorem like_drifted : c.Like p c.drifted := by
  unfold drifted
  split
  · next h => exact like_enterRecovery (inUse_of_life h (by decide))
  · next h => exact like_enterRecovery (inUse_of_life h (by decide))
  all_goals exact .refl p c

theorem like_reattached {a : AttachReport} (h : a.delay ≤ p.taLimit) : c.Like p (c.reattached a) := by
  have fields : c.Like p { c with
      ta := a.delay, attachQuality := a.quality, kind := a.kind, cls := a.cls
      qWide := if c.q.isNone then a.quality else c.qWide, silence := 0 } :=
    ⟨rfl, rfl, rfl, rfl, fun _ ⟨h1, h2, _, h4, h5, _, hrest⟩ => ⟨h1, h2, h, h4, h5, Nat.zero_le _, hrest⟩⟩
  unfold reattached
  dsimp only
  split
  · next hlife => exact fields.trans (like_leaveRecovery (inUse_of_life hlife (by decide)))
  · exact fields

theorem like_freshened : c.Like p c.freshened := by
  unfold freshened
  split
  · refine ⟨rfl, rfl, rfl, rfl, fun _ ⟨h1, h2, h3, _, h5, h6, h7, h8, h9⟩ =>
      ⟨h1, h2, h3, Nat.min_le_left _ _, fun n hn => ?_, h6, h7, h8, (Nat.sub_le _ _).trans h9⟩⟩
    dsimp only at hn
    split at hn
    · next m hm =>
      have := h5 m hm
      split at hn <;> (have := Option.some.inj hn; omega)
    · cases hn
  · exact .refl p c

theorem like_chosen (ranged sounded : Bool) : c.Like p (c.chosen ranged sounded) := by
  refine ⟨rfl, rfl, rfl, rfl, fun _ ⟨h1, h2, h3, h4, h5, h6, h7, h8, h9⟩ =>
    ⟨h1, h2, h3, h4, fun n hn => ?_, h6, h7, h8, ?_⟩⟩
  · simp only [chosen] at hn
    split at hn
    · rw [← Option.some.inj hn]; exact Nat.zero_le _
    · exact h5 n hn
  · simp only [chosen]
    split
    · exact le_refl 8
    · exact h9

end Context

theorem timeout_le (p : Profile) (k : TerminalKind) : p.timeout k ≤ 4000 := by
  cases k
  · cases h : p.silenceFixed <;> simp [Profile.timeout, SilenceCode.timeout, h]
  · cases h : p.silenceNomadic <;> simp [Profile.timeout, SilenceCode.timeout, h]

/-- What a pulse does to a context leaves its holder alone. -/
def ContextPulse.Like (p : Profile) (c : Context) : ContextPulse → Prop
  | .plain c' => c.Like p c'
  | .holdEnd c' => c.Like p c'
  | .recovery c' => c.Like p c'
  | .dormant c' => c.Like p c'
  | .lost => True

theorem dormancyTest_like {p : Profile} {c : Context} (h : c.life = .active) : (dormancyTest p c).Like p c := by
  unfold dormancyTest
  split
  · split
    · refine ⟨rfl, rfl, ?_, rfl, fun _ ⟨h1, h2, h3, h4, h5, h6, _, hrest⟩ =>
        ⟨h1, h2, h3, h4, h5, h6, Nat.zero_le _, hrest⟩⟩
      rw [Context.inUse_of_life h (by decide)]; rfl
    · next hlt =>
      refine Context.like_withDormancy fun hp => ?_
      obtain ⟨-, -, -, -, -, -, -, -, -, ⟨-, hdorm⟩, -⟩ := hp
      omega
  · exact Context.like_withDormancy fun _ => Nat.zero_le _

theorem contextPulse_like (p : Profile) (c : Context) : (contextPulse p c).Like p c := by
  have htimeout := timeout_le p c.kind
  unfold contextPulse
  split
  · exact .refl p c
  · next h =>
    split
    · refine ⟨rfl, rfl, ?_, rfl, fun _ ⟨h1, h2, h3, h4, h5, _, _, _, h9⟩ =>
        ⟨h1, h2, h3, h4, h5, Nat.zero_le _, Nat.zero_le _, Nat.zero_le _, h9⟩⟩
      rw [Context.inUse_of_life h (by decide)]; rfl
    · exact ⟨rfl, rfl, rfl, rfl, fun _ ⟨h1, h2, h3, h4, h5, h6, h7, h8, h9⟩ =>
        ⟨h1, h2, h3, h4, h5, h6, h7, (Nat.sub_le _ _).trans h8, h9⟩⟩
  · next h =>
    split
    · exact Context.like_enterRecovery (Context.inUse_of_life h (by decide))
    · have counted : c.Like p { c with silence := c.silence + 1 } := Context.like_withSilence (by omega)
      have tested := dormancyTest_like (p := p) (c := { c with silence := c.silence + 1 }) h
      cases e : dormancyTest p { c with silence := c.silence + 1 } with
      | lost => trivial
      | plain c' => rw [e] at tested; exact counted.trans tested
      | holdEnd c' => rw [e] at tested; exact counted.trans tested
      | recovery c' => rw [e] at tested; exact counted.trans tested
      | dormant c' => rw [e] at tested; exact counted.trans tested
  · next h =>
    split
    · exact Context.like_enterRecovery (Context.inUse_of_life h (by decide))
    · exact Context.like_withSilence (by omega)
  · split
    · trivial
    · exact Context.like_withSilence (by omega)

theorem pulsed_like (p : Profile) (c : Context) : c.Like p (c.pulsed p) := by
  have h := contextPulse_like p c
  unfold Context.pulsed
  split
  · next c' e => rw [e] at h; exact Context.Like.trans h Context.like_freshened
  all_goals exact Context.like_freshened

/-! ### The fate of telegrams changes a context's bits alone -/

theorem foldl_restoreBits_tag (rs : List Record) (s : State) (i : Slot) :
    ((rs.foldl restoreBits s).ctx i).tag = (s.ctx i).tag := by
  induction rs generalizing s with
  | nil => rfl
  | cons r rs ih =>
    rw [List.foldl_cons, ih, restoreBits]
    split
    · rfl
    · rw [putCtx_ctx]
      split
      · next e => rw [← e]; rfl
      · rfl

theorem rollbackWhere_tag (p : Record → Bool) (s : State) (i : Slot) :
    ((rollbackWhere p s).ctx i).tag = (s.ctx i).tag := foldl_restoreBits_tag _ s i

theorem reportDropped_tag (o : Owner) (s : State) (i : Slot) : ((reportDropped o s).ctx i).tag = (s.ctx i).tag := by
  cases o with
  | claim b => exact congrArg Context.tag ((claimGone_keeps b s).ctx_eq (by decide) i)
  | grantList t n =>
    change ((listDropped t n s).ctx i).tag = _
    unfold listDropped
    split
    · exact rollbackWhere_tag _ _ i
    · rfl
  | bandRelease _ _ => rfl
  | unreported => rfl
  | disowned => rfl

theorem offer_tag (x : TxTelegram) (s : State) (i : Slot) : ((offer x s).ctx i).tag = (s.ctx i).tag := by
  unfold offer
  split
  · split
    · rfl
    · exact reportDropped_tag _ _ i
    · rw [reportDropped_tag, (raise_keeps _ s).ctx_eq (by decide)]
  · rfl

/-! ### The parts of the work -/

namespace StoreLaw
variable {P : State → Prop} (h : StoreLaw P) {s : State} (hp : P s)
include h hp

theorem listDropped (t : Interval) (n : Nat) : P (listDropped t n s) := by
  unfold Machine.listDropped
  split
  · exact h.rollback _ _ (h.frame (updateRegister_keeps s t _) (by decide) hp)
  · exact hp

theorem listWithdrawn (t : Interval) (n : Nat) : P (listWithdrawn t n s) := by
  unfold Machine.listWithdrawn
  split
  · have rolled := h.rollback (·.carriedBy t n) _ (h.frame (updateRegister_keeps s t fun e =>
      { e.mark n .withdrawn with late := true }) (by decide) hp)
    dsimp only
    split
    · exact rolled
    · exact h.raise _ _ rolled
  · exact hp

theorem reportDropped (o : Owner) : P (reportDropped o s) := by
  cases o with
  | claim b => exact h.frame (claimGone_keeps b s) (by decide) hp
  | grantList t n => exact h.listDropped hp t n
  | bandRelease _ _ => exact hp
  | unreported => exact hp
  | disowned => exact hp

theorem reportRemoved (o : Owner) : P (reportRemoved o s) := by
  cases o with
  | claim b => exact h.frame (claimGone_keeps b s) (by decide) hp
  | grantList t n => exact h.listWithdrawn hp t n
  | bandRelease _ _ => exact hp
  | unreported => exact hp
  | disowned => exact hp

theorem offer {x : TxTelegram} (hx : x.Fresh) : P (offer x s) := by
  unfold Machine.offer
  split
  · split
    · next q e => exact h.queued x q s hx (.inl e) hp
    · next q v e => exact h.reportDropped (h.queued x q s hx (.inr ⟨v, e⟩) hp) _
    · exact h.reportDropped (h.raise _ _ hp) _
  · exact hp

omit hp in
theorem offers {xs : List TxTelegram} (hxs : ∀ x ∈ xs, x.Fresh) {s : State} (hp : P s) :
    P (xs.foldl (fun s x => Machine.offer x s) s) := by
  induction xs generalizing s with
  | nil => exact hp
  | cons x xs ih =>
    exact ih (fun y hy => hxs y (List.mem_cons_of_mem _ hy)) (h.offer hp (hxs x List.mem_cons_self))

theorem dropClaim (b : Band) : P (dropClaim b s) := h.remove _ _ s (fun _ => ⟨rfl, rfl⟩) hp

theorem deadline (t : Interval) : P (deadline t s) := by
  have removed := h.remove (s.queuedList t) TxTelegram.marked s (fun _ => ⟨rfl, rfl⟩) hp
  unfold Machine.deadline
  dsimp only
  split
  · exact removed
  · exact h.raise _ _ (h.rollback _ _ (h.frame (updateRegister_keeps _ t _) (by decide) removed))

theorem timeoutClose (t : Interval) (d : Direction) : P (timeoutClose t d s) := by
  unfold Machine.timeoutClose
  split
  · have closed := h.close t d .timeout s hp
    dsimp only
    split
    · exact h.raise _ _ closed
    · exact closed
  · exact hp

theorem settleCloses : P (settleCloses s) := by
  have fold : ∀ (ds : List (Interval × Direction)) (s : State), P s →
      P (ds.foldl (fun s o => Machine.timeoutClose o.1 o.2 s) s) := by
    intro ds
    induction ds with
    | nil => exact fun _ hp => hp
    | cons o ds ih => exact fun s hp => ih _ (h.timeoutClose hp o.1 o.2)
  exact fold _ _ (h.frame (setClosesDue_keeps s []) (by decide) hp)

theorem takeUsage (u : UsageReport) : P (takeUsage u s) := by
  have fold : ∀ (es : List (Tag × Nat)) (s : State), P s → P (es.foldl (applyUsage u.interval u.dir) s) := by
    intro es
    induction es with
    | nil => exact fun _ hp => hp
    | cons e es ih => exact fun s hp => ih _ (h.usage _ _ e s hp)
  unfold Machine.takeUsage
  split
  · dsimp only
    split
    · exact h.close _ _ _ _ (fold _ _ hp)
    · exact fold _ _ hp
  · exact hp

/-! ### Bands -/

theorem reannounce (b : Band) (c : OwnClaim) : P (reannounce b c s) :=
  h.offer (h.frame (putOwn_keeps s b _) (by decide) hp) ⟨rfl, rfl⟩

theorem refreshBand (b : Band) : P (refreshBand b s) := by
  unfold Machine.refreshBand
  dsimp only
  split
  · split
    · exact h.frame (putOwn_keeps s b _) (by decide) hp
    · exact h.reannounce hp b _
  · exact hp

theorem releaseBand (b : Band) (q : Bool) (c : OwnClaim) : P (releaseBand b q c s) :=
  h.offer (h.dropClaim (h.frame (putOwn_keeps s b _) (by decide) hp) b) ⟨rfl, rfl⟩

theorem limitClaim (b : Band) : P (limitClaim b s) := by
  unfold Machine.limitClaim
  dsimp only
  split
  · exact hp
  · split
    · exact hp
    · have asked := h.remove (fun x => x.owner.isClaimOf b) TxTelegram.marked s (fun _ => ⟨rfl, rfl⟩) hp
      split
      · exact h.frame (claimGone_keeps b _) (by decide) asked
      · exact asked

theorem releaseIdle (b : Band) : P (releaseIdle b s) := by
  unfold Machine.releaseIdle
  dsimp only
  split
  · exact h.releaseBand hp b _ _
  · exact hp

theorem decideClaim : P (decideClaim s) := by
  unfold Machine.decideClaim
  split
  · split
    · exact hp
    · next b _ =>
      dsimp only
      exact h.offer (h.frame (setFarDemand_keeps _ 0) (by decide) (h.frame (setSpacing_keeps _ 16) (by decide)
        (h.frame (putOwn_keeps s b _) (by decide) hp))) ⟨rfl, rfl⟩
  · exact hp

theorem keepClaim (b : Band) : P (keepClaim b s) := by
  unfold Machine.keepClaim
  dsimp only
  split
  · split
    · exact hp
    · split
      · exact h.frame (putOwn_keeps s b _) (by decide) hp
      · exact h.reannounce hp b _
  all_goals exact hp

theorem loseClaim (b : Band) (peer : PeerEntry) : P (loseClaim b peer s) := by
  have recorded := h.frame (putNeighbour_keeps _ b (some peer)) (by decide) (h.raise .claimLost s hp)
  unfold Machine.loseClaim
  dsimp only
  split
  · exact h.dropClaim (h.frame (putOwn_keeps _ b _) (by decide) recorded) b
  · exact h.releaseBand recorded b _ _
  · exact recorded
  · exact recorded

theorem hearClaim (source : Station) (b : Band) (a : Interval) : P (hearClaim source b a s) := by
  unfold Machine.hearClaim
  dsimp only
  split
  · split
    · exact h.keepClaim hp b
    · exact h.loseClaim hp b _
  · exact h.frame (recordPeer_keeps b _ s) (by decide) hp

theorem endSequence : P (endSequence s) := endSequence_kept (h.stationReset s hp) hp

theorem beginSequence : P (beginSequence s) := by
  have fold : ∀ (bs : List Band) (s : State), P s → P (bs.foldl sequenceRelease s) := by
    intro bs
    induction bs with
    | nil => exact fun _ hp => hp
    | cons b bs ih =>
      refine fun s hp => ih _ ?_
      unfold sequenceRelease
      dsimp only
      split
      · exact h.releaseBand hp b _ _
      · exact hp
  unfold Machine.beginSequence
  split
  · exact hp
  · exact h.endSequence (fold _ _ (h.frame (setResetSeq_keeps s _) (by decide) hp))

/-! ### Contexts -/

theorem releaseContext (i : Slot) (r : ReleaseReason) : P (releaseContext i r s) := by
  unfold Machine.releaseContext
  split
  · exact hp
  · next g hg =>
    have noticed := h.offer hp (x := telegram .releaseNotice s.profile.partner (releaseNoticePayload g r) .unreported)
      ⟨rfl, rfl⟩
    have freed := h.free i g _ ((offer_tag _ s i).trans hg) noticed
    dsimp only
    split
    · exact h.raise _ _ freed
    · exact freed

theorem writeAndClassify {i : Slot} {c : Context} (hc : (s.ctx i).Like s.profile c) : P (writeAndClassify i c s) := by
  have written := h.put (i := i) (hc.trans (Context.like_withReach (reachAfter s.profile c))) hp
  unfold Machine.writeAndClassify
  dsimp only
  split
  · exact written
  · exact h.raise _ _ written

theorem pulseSlot (i : Slot) : P (pulseSlot i s) := by
  have hc := contextPulse_like s.profile (s.ctx i)
  unfold Machine.pulseSlot
  split
  · next e => rw [e] at hc; exact h.put hc hp
  · next e => rw [e] at hc; exact h.put hc hp
  · next e => rw [e] at hc; exact h.put hc hp
  · next e => rw [e] at hc; exact h.put hc hp
  · exact h.releaseContext hp _ _

theorem takeAttach (a : AttachReport) : P (takeAttach a s) := by
  have refused : ∀ r, P (refuseAttach a.identity r s) := by
    intro r
    cases r with
    | rangeOut => exact h.raise _ _ (h.offer hp ⟨rfl, rfl⟩)
    | tableFull => exact h.raise _ _ (h.offer hp ⟨rfl, rfl⟩)
  unfold Machine.takeAttach
  split
  · exact refused _
  · next hta =>
    have hta : a.delay ≤ s.profile.taLimit := Nat.not_lt.mp hta
    split
    · next i _ =>
      have written := h.writeAndClassify (i := i) hp (Context.like_reattached (a := a) hta)
      dsimp only
      split
      · exact h.offer written ⟨rfl, rfl⟩
      · exact written
    · next hholder =>
      split
      · next i g hroom => exact h.offer (h.offer (h.newcomer a i g s hroom hholder hta hp) ⟨rfl, rfl⟩) ⟨rfl, rfl⟩
      · exact refused _

theorem applyQuality (r : QualityReport) (i : Slot) : P (applyQuality r i s) := by
  have hc := Context.like_withQuality (p := s.profile) (c := s.ctx i) r
  unfold Machine.applyQuality
  dsimp only
  split
  · split
    · next hta => exact h.writeAndClassify hp (hc.trans (Context.like_withTa hta))
    · exact h.releaseContext (h.put hc hp) _ _
  · exact h.writeAndClassify hp (hc.trans Context.like_drifted)

theorem applyRange (r : RangeReport) (i : Slot) : P (applyRange r i s) := by
  have hc := Context.like_withSilence (p := s.profile) (c := s.ctx i) (Nat.zero_le 4000)
  unfold Machine.applyRange
  dsimp only
  split
  · next hta =>
    have ranged := hc.trans (Context.like_withTa hta)
    refine h.writeAndClassify hp ?_
    split
    · next hlife => exact ranged.trans (Context.like_leaveRecovery (Context.inUse_of_life hlife (by decide)))
    · exact ranged
  · exact h.releaseContext (h.put hc hp) _ _

theorem applyBuffer {r : BufferReport} (hbytes : r.bytes < 2 ^ 24) (i : Slot) : P (applyBuffer r i s) := by
  have written : (s.ctx i).Like s.profile { (s.ctx i).heard with
      backlog := (s.ctx i).backlog.put r.dir (8 * r.bytes - (s.ctx i).pending.at r.dir) } := by
    refine Context.like_heard.trans ⟨rfl, rfl, rfl, rfl, fun _ ⟨h1, h2, hrest⟩ => ⟨h1, fun d => ?_, hrest⟩⟩
    have hold := h2 d
    simp only [Context.heard, apply_ite Context.backlog, ite_self] at hold
    simp only [Both.at_put, backlogMax] at hold ⊢
    split <;> omega
  unfold Machine.applyBuffer
  dsimp only
  refine h.put ?_ hp
  split
  · next hwake =>
    refine written.trans ⟨rfl, rfl, ?_, rfl, fun _ ⟨h1, h2, h3, _, h5, _, _, h8, h9⟩ =>
      ⟨h1, h2, h3, le_refl 4095, h5, Nat.zero_le _, Nat.zero_le _, h8, h9⟩⟩
    have hlife : (s.ctx i).heard.life = .dormant := by
      simp only [Context.heard, apply_ite Context.life, ite_self, hwake.1]
    rw [Context.inUse_of_life (c := { (s.ctx i).heard with
      backlog := (s.ctx i).backlog.put r.dir (8 * r.bytes - (s.ctx i).pending.at r.dir) }) hlife (by decide)]
    rfl
  · exact written

theorem takeAdmit (source : Station) (a : AdmitTelegram) : P (takeAdmit source a s) := by
  unfold Machine.takeAdmit
  split
  · exact hp
  · split
    · exact hp
    · dsimp only
      split
      · exact h.offer hp ⟨rfl, rfl⟩
      · exact h.releaseContext hp _ _

theorem retrainTag (g : Tag) : P (retrainTag g s) := by
  unfold Machine.retrainTag
  split
  · next i _ =>
    split
    · next hl => exact h.put (Context.like_enterRecovery (Context.inUse_of_life hl (by decide))) hp
    · next hl => exact h.put (Context.like_enterRecovery (Context.inUse_of_life hl (by decide))) hp
    all_goals exact hp
  · exact hp

theorem perform (d : Due) : P (perform d s) := by
  cases d with
  | admissionHoldEnd i => exact h.pulseSlot hp i
  | silenceTimeout i => exact h.pulseSlot hp i
  | dormancy i => exact h.pulseSlot hp i
  | quarantineEnd g => exact h.release g s hp
  | soundPendingExpiry i => exact h.put (Context.like_withSound fun n hn => by cases hn) hp
  | bandHeld b => exact h.frame (holdBand_keeps b s) (by decide) hp
  | refreshClaim b => exact h.refreshBand hp b
  | settleEnd b => exact h.frame (settleBand_keeps b s) (by decide) hp
  | claimTransmitLimit b => exact h.limitClaim hp b
  | lastAssertExpiry b => exact h.frame (putOwn_keeps s b _) (by decide) hp
  | neighbourEntryExpiry b => exact h.frame (putNeighbour_keeps s b _) (by decide) hp
  | listeningEnd =>
    change P (endListening s)
    unfold endListening
    split
    · exact h.frame (setStation_keeps _ _) (by decide) (h.frame (setListening_keeps s 0) (by decide) hp)
    · exact hp
  | resetSequenceTimeout => exact h.stationReset s hp
  | idleRelease b => exact h.releaseIdle hp b
  | newClaim => exact h.decideClaim hp

/-! ### Pulses and placements -/

theorem pulseEvent : P (pulseEvent s) := by
  have finish : ∀ u v, P u → P ((pulseWork (pulseStation (pulseClaims u))).setAgenda v) := fun u v hu =>
    h.frame (setAgenda_keeps _ v) (by decide) (h.frame (pulseWork_keeps _) (by decide)
      (h.frame (pulseStation_keeps _) (by decide) (h.frame (pulseClaims_keeps u) (by decide) hu)))
  have contexts := h.puts (v := fun i => (s.ctx i).pulsed s.profile) (fun i => pulsed_like s.profile (s.ctx i)) hp
  have tags := h.count _ contexts
  simp only [setContexts_tagEntry] at tags
  rw [pulseEvent_eq]
  exact finish _ _ tags

theorem timingFault : P (timingFault s) :=
  h.frame (faultRefresh_keeps _) (by decide) (h.frame (abandonPlacement_keeps _) (by decide)
    (h.discard _ (h.raise _ _ hp)))

theorem raiseArithmetic (c : Condition) : P (raiseArithmetic c s) :=
  h.raise _ _ (h.frame (setInFlight_keeps s _) (by decide) hp)

theorem chooseEntries : P (chooseEntries s).2 :=
  h.frame (setRefreshPtr_keeps _ _) (by decide) (h.puts (fun _ => Context.like_chosen _ _) hp)

theorem beginPlacement (t : Interval) : P (beginPlacement t s) := by
  have begun := h.frame (setInFlight_keeps s 0) (by decide) hp
  unfold Machine.beginPlacement
  dsimp only
  refine h.frame (setFlight_keeps _ _) (by decide) (h.chooseEntries ?_)
  split
  · exact h.raiseArithmetic begun _
  · exact begun

theorem makeGrant (hroom : s.records.length < 384) (f : Flight) (d : Direction) (c : Candidate) (l : Lay) (n : Stage) :
    P (makeGrant f d c l n s) := by
  unfold Machine.makeGrant
  dsimp only
  refine h.frame (setFlight_keeps _ _) (by decide) ?_
  split
  · next hslot => exact h.grant _ _ _ s hroom hslot hp
  · exact hp

theorem stopPlacing (f : Flight) : P (stopPlacing f s) :=
  h.raise _ _ (h.frame (setFlight_keeps s _) (by decide) hp)

theorem raiseMetrics (f : Flight) (d : Direction) : P (raiseMetrics f d s) := by
  have fold : ∀ (cs : List Condition) (s : State), P s → P (cs.foldl (fun s c => Machine.raiseArithmetic c s) s) := by
    intro cs
    induction cs with
    | nil => exact fun _ hp => hp
    | cons c cs ih => exact fun s hp => ih _ (h.raiseArithmetic hp c)
  exact fold _ s hp

theorem engineMove {t : State} (e : (engineMove s).state = some t) : P t := by
  have flown : ∀ f, P (s.setFlight f) := fun f => h.frame (setFlight_keeps s f) (by decide) hp
  unfold Machine.engineMove at e
  split at e
  · cases e
  · next f _ =>
    split at e
    · next d _ =>
      rw [← Option.some.inj e]
      exact h.frame (setFlight_keeps _ _) (by decide) (h.raiseMetrics hp f d)
    · rw [← Option.some.inj e]; exact flown _
    · split at e
      · rw [← Option.some.inj e]; exact flown _
      · split at e
        · rw [← Option.some.inj e]; exact h.stopPlacing hp f
        · next hfull =>
          rw [← Option.some.inj e]
          exact h.makeGrant hp (by simpa [State.recordsFull] using hfull) _ _ _ _ _
    · rw [← Option.some.inj e]; exact flown _
    · rw [← Option.some.inj e]; exact flown _
    · split at e
      · rw [← Option.some.inj e]; exact flown _
      · split at e
        · rw [← Option.some.inj e]; exact flown _
        · split at e
          · rw [← Option.some.inj e]; exact h.stopPlacing hp f
          · next hfull =>
            rw [← Option.some.inj e]
            exact h.frame (setFallbackPtr_keeps _ _) (by decide)
              (h.makeGrant hp (by simpa [State.recordsFull] using hfull) _ _ _ _ _)
    · cases e

theorem handOver (t : Interval) (es : List ListEntry) : P (handOver t es s) := by
  unfold Machine.handOver
  dsimp only
  refine h.offers (fun x hx => ?_) (h.frame (setOpenIntervals_keeps _ _) (by decide)
    (h.frame (setRegister_keeps _ _) (by decide) (h.carry t es s hp)))
  obtain ⟨y, -, rfl⟩ := List.mem_map.mp hx
  exact ⟨rfl, rfl⟩

theorem claimCompletion (u : Bool) (far : Band → Bool) : P (claimCompletion u far s) := by
  have counted := h.frame (setClaims_keeps _ (Vector.ofFn fun b => (idleAfter (far b) ((updateDemand u s).own b)).1))
    (by decide) (h.frame (setFarDemand_keeps s (if u then min 8 (s.farDemand + 1) else 0)) (by decide) hp)
  unfold Machine.claimCompletion
  dsimp only
  split
  · exact h.decideClaim counted
  · exact h.frame (setAgenda_keeps _ _) (by decide) counted

theorem composePlacement (f : Flight) : P (composePlacement f s) := by
  have finish : ∀ u v, P u → P (((u.setCause v).setInFlight 0).setFlight none) := fun u v hu =>
    h.frame (setFlight_keeps _ none) (by decide) (h.frame (setInFlight_keeps _ 0) (by decide)
      (h.frame (setCause_keeps u v) (by decide) hu))
  have claimed := h.claimCompletion (h.handOver hp f.target (composedList s f)) (f.unmetFar s)
    (farOnBand (composedList s f))
  exact finish _ _ claimed

theorem catchUp (t : Interval) : P (catchUp t s) := by
  have taken : P (takeDeadline t s) := by
    unfold takeDeadline
    split
    · exact h.deadline (h.frame (setDeadlinesDue_keeps s _) (by decide) hp) t
    · exact hp
  unfold Machine.catchUp
  split
  · exact h.timeoutClose (h.timeoutClose taken _ _) _ _
  · exact hp

theorem completePlacement : P (completePlacement s) := by
  unfold Machine.completePlacement
  split
  · exact hp
  · exact h.catchUp (h.composePlacement hp _) _

theorem finishFrame : P (finishFrame s) := by
  unfold Machine.finishFrame
  split
  · exact hp
  · exact h.endSequence (h.frame (reportSent_keeps _ _) (by decide) (h.clearWire s hp))

theorem abandonFrame : P (abandonFrame s) := by
  unfold Machine.abandonFrame
  split
  · exact hp
  · next x hx =>
    split
    · exact h.endSequence (h.reportRemoved (h.clearWire s hp) _)
    · split
      · exact h.endSequence (h.reportDropped (h.raise _ _ (h.clearWire s hp)) _)
      · exact h.retry s x hx (by omega) hp

omit hp

/-- Every command keeps such a law. -/
theorem preserved : Preserved P where
  hardwareReset := h.hardwareReset
  enterLoading n s _ _ hp := h.frame (enterLoading_keeps n s) (by decide) hp
  loadProfile im s _ hq hp := h.loadProfile im s hq hp
  setAgenda v s _ hp := h.frame (setAgenda_keeps s v) (by decide) hp
  setDeadlinesDue v s _ hp := h.frame (setDeadlinesDue_keeps s v) (by decide) hp
  perform d _ _ hp := h.perform hp d
  closes _ _ hp := h.settleCloses hp
  closeDue t d s _ _ hp := h.timeoutClose (h.frame (setClosesDue_keeps s _) (by decide) hp) t d
  deadline t _ _ hp := h.deadline hp t
  pulse s _ _ _ hp := h.pulseEvent (h.frame (setInterval_keeps s _) (by decide) hp)
  mismatch s _ _ hp := h.pulseEvent (h.frame (setInterval_keeps _ _) (by decide) (h.timingFault hp))
  mark s _ _ hp := h.frame (markEvent_keeps _) (by decide) (h.frame (setSynced_keeps _ _) (by decide)
    (h.frame (setInterval_keeps s _) (by decide) hp))
  loss s _ _ hp := h.frame (suspend_keeps _) (by decide) (h.frame (setSynced_keeps _ _) (by decide) (h.timingFault hp))
  beginPlacement t later s _ _ _ hp := h.beginPlacement (h.frame (setPlacementsDue_keeps s later) (by decide) hp) t
  engineMove _ _ _ hp e := h.engineMove hp e
  completePlacement _ _ _ hp := h.completePlacement hp
  receive x s _ hp := h.receive x s hp
  takeRx x rest s _ e hp := h.takeRx x rest s e hp
  beginWire s _ hw hp := h.beginWire s hw hp
  finishFrame _ _ hp := h.finishFrame hp
  abandonFrame _ _ hp := h.abandonFrame hp
  raise c s _ hp := h.raise c s hp
  takeAttach a _ _ hp := h.takeAttach hp a
  releaseContext i r _ _ hp := h.releaseContext hp i r
  applyQuality r i _ _ _ hp := h.applyQuality hp r i
  applyRange r i _ _ _ hp := h.applyRange hp r i
  applyBuffer _ i _ _ hr hp := h.applyBuffer hp hr i
  takeUsage u _ _ hp := h.takeUsage hp u
  hearClaim src b a _ _ hp := h.hearClaim hp src b a
  hearRelease src b s _ hp := h.frame (hearRelease_keeps src b s) (by decide) hp
  takeAdmit src a _ _ hp := h.takeAdmit hp src a
  offerStatus _ _ _ hp := h.offer hp ⟨rfl, rfl⟩
  setFreeCount v s _ hp := h.frame (setFreeCount_keeps s v) (by decide) hp
  retrainTag g _ _ hp := h.retrainTag hp g
  clearFlags m s _ hp := h.frame (setFlags_keeps s _) (by decide) hp
  beginSequence _ _ hp := h.beginSequence hp

end StoreLaw

end Sys2Proof.Machine
end

section
/-! Sizes of queues and lists (R126, R136, R156, R158), and ranges of counted values (R15, R17, R50, R173, R175, R177). -/
namespace Sys2Proof.Machine

/-! ### The transmit queue -/

/-- The sizes of a transmit queue. -/
def QueueFits (q : List TxTelegram) : Prop :=
  q.length ≤ 24 ∧ (q.filter (·.onWire)).length ≤ 1 ∧ ∀ x ∈ q, x.attempts ≤ 2

theorem sizeLaw_iff (s : State) :
    SizeLaw s ↔ QueueFits s.txQueue ∧ s.rxBuffer.length ≤ 8 ∧ s.records.length ≤ 384 := by
  unfold SizeLaw QueueFits
  tauto

theorem queueFits_of_sublist {q q' : List TxTelegram} (h : QueueFits q) (hsub : q'.Sublist q) : QueueFits q' :=
  ⟨hsub.length_le.trans h.1, (hsub.filter _).length_le.trans h.2.1, fun x hx => h.2.2 x (hsub.subset hx)⟩

/-- A queue with room takes a telegram not yet tried. -/
theorem queueFits_concat {q : List TxTelegram} {x : TxTelegram} (h : QueueFits q) (hroom : q.length < 24) (hx : x.Fresh) :
    QueueFits (q ++ [x]) := by
  refine ⟨by simp; omega, ?_, fun y hy => ?_⟩
  · simpa [List.filter_append, hx.2] using h.2.1
  · rcases List.mem_append.mp hy with hy | hy
    · exact h.2.2 y hy
    · rw [List.mem_singleton.mp hy, hx.1]
      exact Nat.zero_le _

/-- What is taken out is one element of the list. -/
theorem takeLast_eq_some {α : Type} {p : α → Bool} {l : List α} {v : α} {rest : List α} (h : takeLast p l = some (v, rest)) :
    p v = true ∧ ∃ before after, l = before ++ v :: after ∧ rest = before ++ after := by
  induction l generalizing rest with
  | nil => cases h
  | cons x xs ih =>
    unfold takeLast at h
    split at h
    · next w r hr =>
      obtain ⟨rfl, rfl⟩ := Prod.mk.inj (Option.some.inj h)
      obtain ⟨hp, before, after, hxs, hrest⟩ := ih hr
      exact ⟨hp, x :: before, after, by rw [hxs, List.cons_append], by rw [hrest, List.cons_append]⟩
    · split at h
      · next hp =>
        obtain ⟨rfl, rfl⟩ := Prod.mk.inj (Option.some.inj h)
        exact ⟨hp, [], _, rfl, rfl⟩
      · cases h

/-- What offering makes of the queue: the telegram behind the queue, or behind what an eviction leaves (R158). -/
theorem admitToQueue_cases {q q' : List TxTelegram} {x : TxTelegram}
    (h : admitToQueue q x = .queued q' ∨ ∃ v, admitToQueue q x = .evicted q' v) :
    (q.length < 24 ∧ q' = q ++ [x]) ∨ ∃ before v after, q = before ++ v :: after ∧ q' = before ++ after ++ [x] := by
  unfold admitToQueue at h
  split at h
  · next hlt =>
    rcases h with h | ⟨v, h⟩
    · exact .inl ⟨hlt, (Offered.queued.inj h).symm⟩
    · cases h
  · split at h
    · next v rest htake =>
      obtain ⟨-, before, after, hq, rfl⟩ := takeLast_eq_some htake
      rcases h with h | ⟨w, h⟩
      · cases h
      · exact .inr ⟨before, v, after, hq, (Offered.evicted.inj h).1.symm⟩
    · rcases h with h | ⟨w, h⟩ <;> cases h

theorem queueFits_admitted {q q' : List TxTelegram} {x : TxTelegram} (hx : x.Fresh)
    (h : admitToQueue q x = .queued q' ∨ ∃ v, admitToQueue q x = .evicted q' v) (hq : QueueFits q) : QueueFits q' := by
  rcases admitToQueue_cases h with ⟨hlt, rfl⟩ | ⟨before, v, after, rfl, rfl⟩
  · exact queueFits_concat hq hlt hx
  · have hsub : (before ++ after).Sublist (before ++ v :: after) := (List.sublist_cons_self v after).append_left before
    refine queueFits_concat (queueFits_of_sublist hq hsub) ?_ hx
    have := hq.1
    simp only [List.length_append, List.length_cons] at this ⊢
    omega

theorem queueFits_remove {q : List TxTelegram} {p : TxTelegram → Bool} {f : TxTelegram → TxTelegram}
    (hf : ∀ x : TxTelegram, (f x).attempts = x.attempts ∧ (f x).onWire = x.onWire) (h : QueueFits q) :
    QueueFits (removeTelegrams p f q) := by
  have hleft := queueFits_of_sublist h (List.filter_sublist (p := fun x => !(p x && !x.onWire)))
  have hwire : ∀ x : TxTelegram, (if p x then f x else x).onWire = x.onWire := fun x => by
    split
    · exact (hf x).2
    · rfl
  have htried : ∀ x : TxTelegram, (if p x then f x else x).attempts = x.attempts := fun x => by
    split
    · exact (hf x).1
    · rfl
  refine ⟨by simpa [removeTelegrams] using hleft.1, ?_, fun x hx => ?_⟩
  · simp only [removeTelegrams, List.filter_map, List.length_map, Function.comp_def, hwire]
    exact hleft.2.1
  · obtain ⟨y, hy, rfl⟩ := List.mem_map.mp hx
    rw [htried]
    exact hleft.2.2 y hy

/-- Rewriting the first element that satisfies a test: there is none, or it stands behind elements that do not. -/
theorem updateFirst_cases {α : Type} (p : α → Bool) (f : α → α) (l : List α) :
    (updateFirst p f l = l ∧ l.find? p = none) ∨ ∃ before v after, l = before ++ v :: after ∧ l.find? p = some v ∧
      updateFirst p f l = before ++ f v :: after := by
  induction l with
  | nil => exact .inl ⟨rfl, rfl⟩
  | cons x xs ih =>
    cases hp : p x with
    | true => exact .inr ⟨[], x, xs, rfl, by simp [hp], by simp [updateFirst, hp]⟩
    | false =>
      simp only [updateFirst, hp, Bool.false_eq_true, if_false, List.find?_cons]
      rcases ih with ⟨h1, h2⟩ | ⟨before, v, after, h1, h2, h3⟩
      · exact .inl ⟨by rw [h1], h2⟩
      · exact .inr ⟨x :: before, v, after, by rw [h1, List.cons_append], h2, by rw [h3, List.cons_append]⟩

/-- With nothing on the wire, one telegram may begin. -/
theorem queueFits_begin {q : List TxTelegram} (p : TxTelegram → Bool) (hwire : q.find? (·.onWire) = none) (h : QueueFits q) :
    QueueFits (updateFirst p (fun x => { x with onWire := true }) q) := by
  have hnone : q.filter (·.onWire) = [] := by
    rw [List.filter_eq_nil_iff]
    simpa using List.find?_eq_none.mp hwire
  rcases updateFirst_cases p (fun x => { x with onWire := true }) q with ⟨he, -⟩ | ⟨before, v, after, rfl, -, he⟩
  · rw [he]; exact h
  · rw [he]
    simp only [List.filter_append, List.append_eq_nil_iff] at hnone
    obtain ⟨hb, hcons⟩ := hnone
    have ha : after.filter (·.onWire) = [] := by
      rw [List.filter_cons] at hcons
      split at hcons
      · cases hcons
      · exact hcons
    refine ⟨by simpa using h.1, ?_, fun x hx => ?_⟩
    · simp [List.filter_append, hb, ha]
    · simp only [List.mem_append, List.mem_cons] at hx
      rcases hx with hx | rfl | hx
      · exact h.2.2 x (by simp [hx])
      · exact h.2.2 v (by simp)
      · exact h.2.2 x (by simp [hx])

/-- The telegram on the wire stays for another attempt. -/
theorem queueFits_retry {q : List TxTelegram} {x : TxTelegram} (hwire : q.find? (·.onWire) = some x)
    (hx : x.attempts + 1 < 3) (h : QueueFits q) :
    QueueFits (updateFirst (·.onWire) (fun x => { x with attempts := x.attempts + 1, onWire := false }) q) := by
  rcases updateFirst_cases (·.onWire) (fun x => { x with attempts := x.attempts + 1, onWire := false }) q with
    ⟨he, -⟩ | ⟨before, v, after, rfl, hv, he⟩
  · rw [he]; exact h
  · obtain rfl := Option.some.inj (hwire.symm.trans hv)
    rw [he]
    refine ⟨by simpa using h.1, ?_, fun y hy => ?_⟩
    · have hsub : (before ++ after).Sublist (before ++ x :: after) :=
        (List.sublist_cons_self x after).append_left before
      have := (hsub.filter (·.onWire)).length_le.trans h.2.1
      simpa [List.filter_append] using this
    · simp only [List.mem_append, List.mem_cons] at hy
      rcases hy with hy | rfl | hy
      · exact h.2.2 y (by simp [hy])
      · show x.attempts + 1 ≤ 2
        omega
      · exact h.2.2 y (by simp [hy])

theorem queueAlert_cases {s t : State} (h : s.queueAlert = some t) :
    admitToQueue s.txQueue s.alertTelegram = .queued t.txQueue ∨
      ∃ v, admitToQueue s.txQueue s.alertTelegram = .evicted t.txQueue v := by
  unfold State.queueAlert at h
  split at h
  · next e => rw [← Option.some.inj h]; exact .inl e
  · next v e => rw [← Option.some.inj h]; exact .inr ⟨v, e⟩
  · cases h

theorem queueFits_queueAlert {s t : State} (h : s.queueAlert = some t) (hq : QueueFits s.txQueue) :
    QueueFits t.txQueue := queueFits_admitted (x := s.alertTelegram) ⟨rfl, rfl⟩ (queueAlert_cases h) hq

theorem queueFits_offerAlert {s : State} (h : QueueFits s.txQueue) : QueueFits (offerAlert s).txQueue := by
  unfold offerAlert
  split
  · split
    · next e => exact queueFits_queueAlert e h
    · split
      · exact h
      · dsimp only
        split
        · cases e : (s.setFlag .txFail).queueAlert with
          | none => exact h
          | some t => exact queueFits_queueAlert e h
        · exact h
  · exact h

theorem queueFits_raise (c : Condition) {s : State} (h : QueueFits s.txQueue) : QueueFits (raise c s).txQueue := by
  unfold raise
  split
  · exact h
  · dsimp only
    split
    · exact queueFits_offerAlert (s := s.setFlag c) h
    · exact h

/-! ### The law of the sizes -/

theorem sizeLaw_mono {s t : State} (h : SizeLaw s) (hq : QueueFits s.txQueue → QueueFits t.txQueue)
    (hrx : t.rxBuffer.length ≤ s.rxBuffer.length) (hrec : t.records.length ≤ s.records.length) : SizeLaw t := by
  rw [sizeLaw_iff] at *
  exact ⟨hq h.1, hrx.trans h.2.1, hrec.trans h.2.2⟩

theorem sizeLaw_of_empty {s : State} (hq : s.txQueue = []) (hrx : s.rxBuffer = []) (hrec : s.records = []) :
    SizeLaw s := by
  simp [SizeLaw, hq, hrx, hrec]

theorem sizeLaw_of_keeps {l : List Field} {s t : State} (hk : Keeps l s t)
    (hl : ∀ f ∈ l, f ∉ [Field.txQueue, .rxBuffer, .records]) (h : SizeLaw s) : SizeLaw t := by
  refine sizeLaw_mono h (fun hq => ?_) ?_ ?_
  · rwa [hk.txQueue_eq fun hm => hl _ hm (by decide)]
  · rw [hk.rxBuffer_eq fun hm => hl _ hm (by decide)]
  · rw [hk.records_eq fun hm => hl _ hm (by decide)]

theorem sizeLaw_raise (c : Condition) {s : State} (h : SizeLaw s) : SizeLaw (raise c s) := by
  have hk := raise_keeps c s
  refine sizeLaw_mono h (queueFits_raise c) ?_ ?_
  · rw [hk.rxBuffer_eq (by decide)]
  · rw [hk.records_eq (by decide)]

theorem discardRecords_txQueue (s : State) : ∃ p, (discardRecords s).txQueue =
    removeTelegrams p TxTelegram.markedDisowned s.txQueue := ⟨_, rfl⟩

theorem sizeLaw_storeLaw : StoreLaw SizeLaw where
  frame hk hl h :=
    have hread : ∀ f ∈ [Field.txQueue, .rxBuffer, .records], f ∈ storing := by decide
    sizeLaw_of_keeps hk (fun f hf hm => hl f hf (hread f hm)) h
  hardwareReset _ := sizeLaw_of_empty rfl rfl rfl
  loadProfile im s _ h := sizeLaw_of_keeps (loadProfile_keeps im s) (by decide) h
  stationReset _ _ := sizeLaw_of_empty rfl rfl rfl
  raise c _ h := sizeLaw_raise c h
  queued x q s hx hq h := sizeLaw_mono h (queueFits_admitted hx hq) (le_refl _) (le_refl _)
  remove p f s hf h := sizeLaw_mono h (queueFits_remove hf) (le_refl _) (le_refl _)
  clearWire s h := sizeLaw_mono h (fun hq => queueFits_of_sublist hq List.filter_sublist) (le_refl _) (le_refl _)
  beginWire s hw h := sizeLaw_mono h (queueFits_begin _ hw) (le_refl _) (le_refl _)
  retry s x hw hx h := sizeLaw_mono h (queueFits_retry hw hx) (le_refl _) (le_refl _)
  receive x s h := by
    unfold receive
    split
    · next hroom =>
      rw [sizeLaw_iff] at *
      refine ⟨h.1, ?_, h.2.2⟩
      rw [setRxBuffer_rxBuffer, List.length_append, List.length_singleton]
      omega
    · exact sizeLaw_raise _ h
  takeRx x rest s e h := sizeLaw_mono h id (by rw [e]; exact Nat.le_succ _) (le_refl _)
  rollback p s h := by
    have hk := rollbackWhere_keeps p s
    refine sizeLaw_mono h (fun hq => ?_) (by rw [hk.rxBuffer_eq (by decide)]) ?_
    · rwa [hk.txQueue_eq (by decide)]
    · rw [rollbackWhere_records]; exact List.length_filter_le _ _
  close t d c s h := by
    have hk := closeInterval_keeps t d c s
    refine sizeLaw_mono h (fun hq => ?_) (by rw [hk.rxBuffer_eq (by decide)]) ?_
    · rwa [hk.txQueue_eq (by decide)]
    · rw [closeInterval_records]; exact List.length_filter_le _ _
  discard s h := by
    obtain ⟨p, hq⟩ := discardRecords_txQueue s
    refine sizeLaw_mono h (fun hfits => ?_) (by rw [(discardRecords_keeps s).rxBuffer_eq (by decide)]) (Nat.zero_le _)
    rw [hq]
    exact queueFits_remove (fun _ => ⟨rfl, rfl⟩) hfits
  usage t d e s h := sizeLaw_mono h id (le_refl _) (by simp [applyUsage])
  carry t es s h := by
    refine sizeLaw_mono h id (le_refl _) ?_
    rw [setRecords_records, carryRecords, List.length_map]
    exact List.length_filter_le _ _
  put _ h := sizeLaw_of_keeps (putCtx_keeps _ _ _) (by decide) h
  puts _ h := sizeLaw_of_keeps (setContexts_keeps _ _) (by decide) h
  grant t g n s hroom _ h := by
    rw [sizeLaw_iff] at *
    refine ⟨h.1, h.2.1, ?_⟩
    rw [recordGrant, setRecords_records, List.length_append, List.length_singleton]
    omega
  free i g s _ h := sizeLaw_mono h id (le_refl _) (by simp [orphanRecords])
  newcomer a i g s _ _ _ h := sizeLaw_of_keeps (((putTag_keeps s _ _).mono (l' := [.tags, .tagPtr, .contexts])
    (by decide)).andThen (setTagPtr_keeps _ _) (by decide) |>.andThen (putCtx_keeps _ _ _) (by decide)) (by decide) h
  release g s h := sizeLaw_of_keeps (putTag_keeps s g _) (by decide) h
  count s h := sizeLaw_of_keeps (setTags_keeps s _) (by decide) h

/-! ### Contexts, tags and profile in their ranges -/

/-- Profile, contexts and quarantines in their ranges. -/
def StoreRanges (s : State) : Prop :=
  s.profile.inRange ∧ (∀ i, (s.ctx i).inRange s.profile) ∧ ∀ g, (s.tagEntry g).quarantine ≤ 64

theorem inRange_free (p : Profile) : Context.free.inRange p := by
  refine ⟨fun d => ?_, fun d => ?_, Nat.zero_le _, Nat.zero_le _, fun _ hn => by simp [Context.free] at hn,
    Nat.zero_le _, Nat.zero_le _, Nat.zero_le _, Nat.zero_le _⟩ <;> cases d <;> exact Nat.zero_le _

theorem inRange_default : Profile.default.inRange := by
  simp [Profile.inRange, Profile.default, metricMax]

theorem imageByte_lt (image : List Byte) (n : Nat) : imageByte image n < 256 := (((image[n]?).getD 0xFF#8)).isLt

theorem bits_lt (w hi lo : Nat) : bits w hi lo < 2 ^ (hi + 1 - lo) := Nat.mod_lt _ (Nat.two_pow_pos _)

/-- What a good image writes lies in the ranges (R173). -/
theorem inRange_profileOf (image : List Byte) : (profileOf image).inRange := by
  have h17 := imageByte_lt image 17
  have h18 := imageByte_lt image 18
  have h19 := imageByte_lt image 19
  have hderate := bits_lt (imageByte image 5) 3 1
  have hfarTa := bits_lt (imageByte image 9 * 256 + imageByte image (9 + 1)) 9 0
  have hfarQ := bits_lt (imageByte image 11) 7 4
  have htaLimit := bits_lt (imageByte image 12 * 256 + imageByte image (12 + 1)) 9 0
  simp only [Nat.reduceAdd, Nat.reduceSub, Nat.reducePow] at hderate hfarTa hfarQ htaLimit
  simp only [Profile.inRange, profileOf, clampTo, metricMax, Nat.reduceAdd]
  omega

theorem storeRanges_fresh {s : State} (hp : s.profile.inRange) (hc : s.contexts = Vector.replicate 96 Context.free)
    (ht : s.tags = Vector.replicate 256 ⟨none, 0⟩) : StoreRanges s := by
  refine ⟨hp, fun i => ?_, fun g => ?_⟩
  · simpa [State.ctx, hc] using inRange_free s.profile
  · simp [State.tagEntry, ht]

/-- Contexts rewritten one record after the other keep what each rewriting keeps. -/
theorem foldl_ctx {Q : Context → Prop} {f : State → Record → State}
    (hf : ∀ s r, (∀ i, Q (s.ctx i)) → ∀ i, Q ((f s r).ctx i)) (rs : List Record) (s : State) (h : ∀ i, Q (s.ctx i)) :
    ∀ i, Q ((rs.foldl f s).ctx i) := by
  induction rs generalizing s with
  | nil => exact h
  | cons r rs ih => exact ih _ (hf s r h)

theorem putCtx_all {Q : Context → Prop} {s : State} {i : Slot} {c : Context} (h : ∀ j, Q (s.ctx j)) (hc : Q c) :
    ∀ j, Q ((s.putCtx i c).ctx j) := by
  intro j
  rw [putCtx_ctx]
  split
  · exact hc
  · exact h j

theorem inRange_withBacklog {p : Profile} {c : Context} (h : c.inRange p) (d : Direction) (pending : Both Nat) {n : Nat}
    (hn : n ≤ backlogMax) : Context.inRange p { c with backlog := c.backlog.put d n, pending := pending } := by
  refine ⟨h.1, fun e => ?_, h.2.2⟩
  dsimp only
  rw [Both.at_put]
  split
  · exact hn
  · exact h.2.1 e

theorem inRange_unpend {p : Profile} {c : Context} (h : c.inRange p) (d : Direction) (granted back : Nat) :
    (c.unpend d granted back).inRange p := inRange_withBacklog h d _ (Nat.min_le_left _ _)

theorem ofFn_ctx (s : State) (v : Slot → Context) (i : Slot) : (s.setContexts (Vector.ofFn v)).ctx i = v i := by
  simp [State.ctx]

/-- A change of contexts and records alone. -/
theorem storeRanges_of_ctx {l : List Field} {s t : State} (hk : Keeps l s t) (hl : ∀ f ∈ l, f ∉ [Field.profile, .tags])
    (hc : (∀ i, (s.ctx i).inRange s.profile) → ∀ i, (t.ctx i).inRange s.profile) (h : StoreRanges s) : StoreRanges t := by
  have hp := hk.profile_eq fun hm => hl _ hm (by decide)
  refine ⟨hp ▸ h.1, fun i => ?_, fun g => ?_⟩
  · rw [hp]; exact hc h.2.1 i
  · rw [hk.tagEntry_eq fun hm => hl _ hm (by decide)]; exact h.2.2 g

theorem inRange_putAverage {p : Profile} {c : Context} (h : c.inRange p) (d : Direction) {n : Nat} (hn : n ≤ metricMax) :
    Context.inRange p { c with average := c.average.put d n } := by
  refine ⟨fun e => ?_, h.2⟩
  dsimp only
  rw [Both.at_put]
  split
  · exact hn
  · exact h.1 e

theorem closeInterval_ctx (t : Interval) (d : Direction) (c : CloseCause) (s : State) (i : Slot) :
    (closeInterval t d c s).ctx i = (updateAverages c (s.records.filter (·.inClose t d)) d
      ((s.records.filter (·.inClose t d)).foldl (settleRecord c) (s.writeCause t d c))).ctx i := by
  simp only [closeInterval, State.dropOpen, setRegister_ctx, setOpenIntervals_ctx, setRecords_ctx]

theorem discardRecords_ctx (s : State) (i : Slot) : (discardRecords s).ctx i =
    if ((s.records.foldl returnBits s).ctx i).inUse then
      { (s.records.foldl returnBits s).ctx i with pending := ⟨0, 0⟩ }
    else (s.records.foldl returnBits s).ctx i := by
  simp only [discardRecords, setTxQueue_ctx, setClosesDue_ctx, setDeadlinesDue_ctx, setRegister_ctx,
    setOpenIntervals_ctx, setRecords_ctx, ofFn_ctx]

theorem inRange_closeInterval (t : Interval) (d : Direction) (c : CloseCause) {s : State} {p : Profile}
    (h : ∀ i, (s.ctx i).inRange p) (i : Slot) : ((closeInterval t d c s).ctx i).inRange p := by
  have settled := foldl_ctx (Q := fun x => x.inRange p) (f := settleRecord c) (fun s r hs => by
    unfold settleRecord
    split
    · exact hs
    · exact putCtx_all hs (inRange_unpend (hs r.slot) _ _ _)) (s.records.filter (·.inClose t d)) (s.writeCause t d c) h i
  rw [closeInterval_ctx, updateAverages, ofFn_ctx]
  dsimp only
  split
  · exact inRange_putAverage settled d (averageUpdate_le _ _ _ _)
  · exact settled

theorem inRange_discardRecords {s : State} {p : Profile} (h : ∀ i, (s.ctx i).inRange p) (i : Slot) :
    ((discardRecords s).ctx i).inRange p := by
  have returned := foldl_ctx (Q := fun x => x.inRange p) (f := returnBits) (fun s r hs => by
    unfold returnBits
    split
    · exact hs
    · exact putCtx_all hs (inRange_withBacklog (hs r.slot) r.dir _ (Nat.min_le_left _ _))) s.records s h i
  rw [discardRecords_ctx]
  split
  · exact returned
  · exact returned

theorem inRange_admitted {p : Profile} (hp : p.inRange) (now : Interval) (g : Tag) {a : AttachReport}
    (ha : a.delay ≤ p.taLimit) : (admittedContext p now g a).inRange p := by
  refine ⟨fun d => ?_, fun d => ?_, ha, Nat.zero_le _, fun _ hn => by simp [admittedContext] at hn, Nat.zero_le _,
    Nat.zero_le _, le_refl 4, Nat.zero_le _⟩
  · obtain ⟨-, -, -, -, -, -, -, -, -, -, havg⟩ := hp
    cases d <;> exact havg
  · cases d <;> exact Nat.zero_le _

theorem putTag_all {Q : TagEntry → Prop} {s : State} {g : Tag} {e : TagEntry} (h : ∀ k, Q (s.tagEntry k)) (he : Q e) :
    ∀ k, Q ((s.putTag g e).tagEntry k) := by
  intro k
  rw [putTag_tagEntry]
  split
  · exact he
  · exact h k

theorem storeRanges_setTags {s : State} (v : Vector TagEntry 256) (h : StoreRanges s)
    (hv : ∀ g : Tag, v[g].quarantine ≤ 64) : StoreRanges (s.setTags v) :=
  ⟨h.1, h.2.1, hv⟩

theorem storeRanges_storeLaw : StoreLaw StoreRanges where
  frame hk hl h := by
    refine storeRanges_of_ctx hk (fun f hf hm => hl f hf ?_) (fun hc i => ?_) h
    · have hread : ∀ f ∈ [Field.profile, .tags], f ∈ storing := by decide
      exact hread f hm
    · rw [hk.ctx_eq fun hm => hl _ hm (by decide)]; exact hc i
  hardwareReset _ := storeRanges_fresh inRange_default rfl rfl
  loadProfile im s hq h := by
    have hk := loadProfile_keeps im s
    refine storeRanges_fresh ?_ ((hk.contexts_eq (by decide)).trans (by rw [hq]; rfl))
      ((hk.tags_eq (by decide)).trans (by rw [hq]; rfl))
    unfold loadProfile
    split
    · split
      · exact inRange_profileOf im
      · exact h.1
    · exact h.1
  stationReset s h := storeRanges_fresh h.1 rfl rfl
  raise c s h := storeRanges_of_ctx (raise_keeps c s) (by decide) (fun hc i => by
    rw [(raise_keeps c s).ctx_eq (by decide)]; exact hc i) h
  queued _ _ _ _ _ h := h
  remove _ _ _ _ h := h
  clearWire _ h := h
  beginWire _ _ h := h
  retry _ _ _ _ h := h
  receive x s h := storeRanges_of_ctx (receive_keeps x s) (by decide) (fun hc i => by
    rw [(receive_keeps x s).ctx_eq (by decide)]; exact hc i) h
  takeRx _ _ _ _ h := h
  rollback p s h := storeRanges_of_ctx (rollbackWhere_keeps p s) (by decide) (fun hc =>
    foldl_ctx (f := restoreBits) (fun s r hs => by
      unfold restoreBits
      split
      · exact hs
      · exact putCtx_all hs (inRange_unpend (hs r.slot) _ _ _)) (s.records.filter p) s hc) h
  close t d c s h := storeRanges_of_ctx (closeInterval_keeps t d c s) (by decide) (inRange_closeInterval t d c) h
  discard s h := storeRanges_of_ctx (discardRecords_keeps s) (by decide) inRange_discardRecords h
  usage _ _ _ _ h := h
  carry _ _ _ h := h
  put {i c s} hc h := storeRanges_of_ctx (putCtx_keeps s i c) (by decide) (fun hs =>
    putCtx_all hs (hc.2.2.2.2 h.1 (hs i))) h
  puts hc h := storeRanges_of_ctx (setContexts_keeps _ _) (by decide) (fun hs i => by
    rw [ofFn_ctx]; exact (hc i).2.2.2.2 h.1 (hs i)) h
  grant t g n s _ _ h := storeRanges_of_ctx (recordGrant_keeps t g n s) (by decide) (fun hs =>
    putCtx_all (s := s) hs (inRange_withBacklog (hs g.slot) g.dir _ ((Nat.sub_le _ _).trans ((hs g.slot).2.1 g.dir)))) h
  free i g s _ h := ⟨h.1, putCtx_all (Q := fun c => c.inRange s.profile) (s := orphanRecords i g (s.putTag g ⟨none, 64⟩))
    h.2.1 (inRange_free _), putTag_all (Q := fun e => e.quarantine ≤ 64) h.2.2 (le_refl 64)⟩
  newcomer a i g s _ _ ha h := ⟨h.1, putCtx_all (Q := fun c => c.inRange s.profile)
    (s := (s.putTag g ⟨some i, 0⟩).setTagPtr (g + 1)) h.2.1 (inRange_admitted h.1 _ _ ha),
    putTag_all (Q := fun e => e.quarantine ≤ 64) h.2.2 (Nat.zero_le _)⟩
  release g s h := ⟨h.1, h.2.1, putTag_all (Q := fun e => e.quarantine ≤ 64) h.2.2 (Nat.zero_le _)⟩
  count s h := storeRanges_setTags _ h fun g => by
    rw [Fin.getElem_fin, Vector.getElem_ofFn]
    have := h.2.2 g
    unfold TagEntry.pulsed
    split
    · exact this
    · exact (Nat.sub_le _ _).trans this

/-! ### Station control's counts -/

/-- Listening and reset sequence counts in their ranges (R175, R177). -/
def CountRanges (s : State) : Prop := s.listening ≤ 128 ∧ ∀ n, s.resetSeq = some n → n ≤ 1

theorem countRanges_of_keeps {l : List Field} {s t : State} (hk : Keeps l s t)
    (hl : ∀ f ∈ l, f ∉ [Field.listening, .resetSeq]) (h : CountRanges s) : CountRanges t := by
  rw [CountRanges, hk.listening_eq fun hm => hl _ hm (by decide), hk.resetSeq_eq fun hm => hl _ hm (by decide)]
  exact h

theorem countRanges_reset {s : State} (hlist : s.listening = 0) (hseq : s.resetSeq = none) : CountRanges s :=
  ⟨by omega, fun n hn => by rw [hseq] at hn; cases hn⟩

theorem countRanges_pulse {s : State} (h : CountRanges s) : CountRanges (pulseEvent s) := by
  refine ⟨?_, fun n hn => ?_⟩
  · rw [pulseEvent_listening]
    have := h.1
    split <;> omega
  · rw [pulseEvent_resetSeq, Option.map_eq_some_iff] at hn
    obtain ⟨m, hm, rfl⟩ := hn
    have := h.2 m hm
    split <;> omega

theorem countRanges_mark {s : State} (h : CountRanges s) : CountRanges (markEvent s) := by
  have resumed : ∀ r : Option Resume, CountRanges (match r with
      | none => ((s.setStation .listening).setListening 128).setResume none
      | some .running => (s.setStation .running).setResume none
      | some .listening => (s.setStation .listening).setResume none) := fun r =>
    match r with
    | none => ⟨le_refl 128, h.2⟩
    | some .running => h
    | some .listening => h
  unfold markEvent
  cases s.station with
  | syncing => exact resumed s.resume
  | suspended => exact resumed s.resume
  | _ => exact h

theorem countRanges_timerLaw : TimerLaw CountRanges where
  frame hk hl _ h :=
    have hread : ∀ f ∈ [Field.listening, .resetSeq], f ∈ timing := by decide
    countRanges_of_keeps hk (fun f hf hm => hl f hf (hread f hm)) h
  hardwareReset _ := countRanges_reset rfl rfl
  enterLoading n s _ _ h := countRanges_of_keeps (enterLoading_keeps n s) (by decide) h
  loadProfile im s _ _ h := countRanges_of_keeps (loadProfile_keeps im s) (by decide) h
  stationReset _ _ _ := countRanges_reset rfl rfl
  endListening _ _ _ h := ⟨Nat.zero_le _, h.2⟩
  beginReset _ _ h := ⟨h.1, fun n hn => by rw [← Option.some.inj hn]; exact Nat.zero_le _⟩
  closes s _ h := countRanges_of_keeps (settleCloses_keeps s) (by decide) h
  closeDue t d s _ _ h := countRanges_of_keeps (timeoutClose_keeps t d _) (by decide)
    (countRanges_of_keeps (setClosesDue_keeps s _) (by decide) h)
  closeInterval t d c s _ h := countRanges_of_keeps (closeInterval_keeps t d c s) (by decide) h
  pulse s _ _ _ h := countRanges_pulse (countRanges_of_keeps (setInterval_keeps s _) (by decide) h)
  mismatch s _ _ h := countRanges_pulse (countRanges_of_keeps (setInterval_keeps _ _) (by decide)
    (countRanges_of_keeps (timingFault_keeps s) (by decide) h))
  mark s _ _ h := countRanges_mark (countRanges_of_keeps (setSynced_keeps _ _) (by decide)
    (countRanges_of_keeps (setInterval_keeps s _) (by decide) h))
  loss s _ _ h := countRanges_of_keeps (suspend_keeps _) (by decide)
    (countRanges_of_keeps (setSynced_keeps _ _) (by decide) (countRanges_of_keeps (timingFault_keeps s) (by decide) h))
  beginPlacement t later s _ _ _ h := countRanges_of_keeps (beginPlacement_keeps t _) (by decide)
    (countRanges_of_keeps (setPlacementsDue_keeps s later) (by decide) h)
  engineMove _ _ _ h e := countRanges_of_keeps (engineMove_keeps e) (by decide) h
  completePlacement s _ _ h := countRanges_of_keeps (completePlacement_keeps s) (by decide) h

theorem rangeLaw_iff (s : State) : RangeLaw s ↔ StoreRanges s ∧ BandRanges s ∧ CountRanges s := by
  unfold RangeLaw StoreRanges BandRanges CountRanges
  tauto

theorem rangeLaw_step {s t : State} (hst : StationLaw s) (h : RangeLaw s) (e : step s = .next t) : RangeLaw t := by
  obtain ⟨h1, h2, h3⟩ := (rangeLaw_iff s).mp h
  exact (rangeLaw_iff t).mpr ⟨step_preserved storeRanges_storeLaw.preserved (fun _ _ h => h) hst h1 e,
    step_preserved bandRanges_bandLaw.preserved (fun _ _ h => h) hst h2 e,
    step_preserved countRanges_timerLaw.preserved (fun _ _ h => h) hst h3 e⟩

/-- Settles O56: sizes and ranges are kept by what is written to queue, contexts, claim records and counts, the open intervals
by their ages. -/
theorem sizesAndRangesKept : Obligations.SizesAndRangesKept := fun _ _ hst e =>
  ⟨fun h => step_preserved sizeLaw_storeLaw.preserved (fun _ _ h => h) hst h e, fun h => rangeLaw_step hst h e,
    fun h => openLaw_step hst h e⟩

end Sys2Proof.Machine
end

section
/-! What rollbacks, closes and the discard at a timing fault do to contexts, as sums over records (R140, R145, R148). -/
namespace Sys2Proof.Machine

/-! ### Folds over records -/

/-- A fold that, for every unorphaned record, lowers pending by `take` and writes a backlog. -/
theorem foldl_pending {f : State → Record → State} {take : Record → Nat} {back : State → Record → Both Nat}
    (hf : ∀ s r, f s r = if r.orphan then s else s.putCtx r.slot { s.ctx r.slot with
      pending := (s.ctx r.slot).pending.put r.dir ((s.ctx r.slot).pending.at r.dir - take r)
      backlog := back s r })
    (rs : List Record) (s : State) (i : Slot) :
    (∀ d, ((rs.foldl f s).ctx i).pending.at d = (s.ctx i).pending.at d - sumOf rs take i d) ∧
    (rs.foldl f s).ctx i = { s.ctx i with
      pending := ((rs.foldl f s).ctx i).pending, backlog := ((rs.foldl f s).ctx i).backlog } := by
  induction rs generalizing s with
  | nil => exact ⟨fun d => by simp [sumOf], rfl⟩
  | cons r rs ih =>
    obtain ⟨ihp, ihc⟩ := ih (f s r)
    have one : (∀ d, ((f s r).ctx i).pending.at d =
        (s.ctx i).pending.at d - (if r.slot = i ∧ r.dir = d ∧ r.orphan = false then take r else 0)) ∧
        (f s r).ctx i = { s.ctx i with
          pending := ((f s r).ctx i).pending, backlog := ((f s r).ctx i).backlog } := by
      rw [hf]
      cases ho : r.orphan
      · by_cases hi : r.slot = i
        · subst hi
          refine ⟨fun d => ?_, by simp⟩
          by_cases hd : r.dir = d <;> simp [hd]
        · simp [putCtx_ctx_other _ _ _ hi, hi]
      · simp
    refine ⟨fun d => ?_, ?_⟩
    · rw [List.foldl_cons, ihp, one.1, sumOf_cons]; omega
    · rw [List.foldl_cons]
      generalize (rs.foldl f (f s r)).ctx i = c at ihc ⊢
      rw [ihc, one.2]

/-- A sum falls into the part over what satisfies a test and the part over the rest. -/
theorem sumOf_filter_add (rs : List Record) (bits : Record → Nat) (p : Record → Bool) (i : Slot) (d : Direction) :
    sumOf rs bits i d = sumOf (rs.filter p) bits i d + sumOf (rs.filter fun r => !p r) bits i d := by
  induction rs with
  | nil => rfl
  | cons r rs ih =>
    cases hp : p r <;> simp only [hp, List.filter_cons, Bool.not_false, Bool.not_true, if_true, Bool.false_eq_true, if_false,
      sumOf_cons, ih] <;> omega

/-! ### Rollback -/

theorem restoreBits_eq (s : State) (r : Record) : restoreBits s r =
    if r.orphan then s else s.putCtx r.slot { s.ctx r.slot with
      pending := (s.ctx r.slot).pending.put r.dir ((s.ctx r.slot).pending.at r.dir - r.granted)
      backlog := (s.ctx r.slot).backlog.put r.dir (min backlogMax ((s.ctx r.slot).backlog.at r.dir + r.granted)) } := rfl

theorem rollbackWhere_ctx (p : Record → Bool) (s : State) (i : Slot) :
    (rollbackWhere p s).ctx i = ((s.records.filter p).foldl restoreBits s).ctx i := setRecords_ctx _ _ i

theorem rollbackWhere_pending (p : Record → Bool) (s : State) (i : Slot) (d : Direction) :
    ((rollbackWhere p s).ctx i).pending.at d = (s.ctx i).pending.at d - s.sumOver p (·.granted) i d := by
  rw [rollbackWhere_ctx, sumOver_eq]
  exact (foldl_pending restoreBits_eq (s.records.filter p) s i).1 d

/-- A rollback leaves all of a context but pending and backlog alone. -/
theorem rollbackWhere_ctx_eq (p : Record → Bool) (s : State) (i : Slot) : (rollbackWhere p s).ctx i = { s.ctx i with
    pending := ((rollbackWhere p s).ctx i).pending, backlog := ((rollbackWhere p s).ctx i).backlog } := by
  rw [rollbackWhere_ctx]
  exact (foldl_pending restoreBits_eq (s.records.filter p) s i).2

theorem rollbackWhere_backlog (p : Record → Bool) {s : State} (hb : BacklogLaw s) (i : Slot) (d : Direction) :
    ((rollbackWhere p s).ctx i).backlog.at d = min backlogMax ((s.ctx i).backlog.at d + s.sumOver p (·.granted) i d) := by
  rw [rollbackWhere_ctx, sumOver_eq]
  exact (foldl_bits restoreBits_eq (s.records.filter p) s hb i).2.1 d

/-- Settles O43: the fold over the records rolled back, record by record. -/
theorem rollbackRestores : Obligations.RollbackRestores := fun p s hb =>
  ⟨rollbackWhere_records p s, rollbackWhere_pending p s, rollbackWhere_backlog p hb, rollbackWhere_ctx_eq p s,
    rollbackWhere_keeps p s⟩

/-! ### Close -/

theorem settleRecord_eq (cause : CloseCause) (s : State) (r : Record) : settleRecord cause s r =
    if r.orphan then s else s.putCtx r.slot { s.ctx r.slot with
      pending := (s.ctx r.slot).pending.put r.dir ((s.ctx r.slot).pending.at r.dir - r.granted)
      backlog := (s.ctx r.slot).backlog.put r.dir
        (min backlogMax ((s.ctx r.slot).backlog.at r.dir + (r.granted - r.settled cause))) } := rfl

/-- The state of a close with its records settled and the averages still to be updated. -/
def State.settled (s : State) (t : Interval) (d : Direction) (c : CloseCause) : State :=
  (s.records.filter (·.inClose t d)).foldl (settleRecord c) (s.writeCause t d c)

theorem settled_keeps (s : State) (t : Interval) (d : Direction) (c : CloseCause) :
    Keeps [.contexts, .openIntervals] s (s.settled t d c) :=
  ((setOpenIntervals_keeps s _).mono (by decide)).andThen (Keeps.foldl (settleRecord_keeps c) _ _) (by decide)

/-- A close leaves all of a context but pending, backlog and average alone. -/
theorem closeInterval_ctx_of (t : Interval) (d : Direction) (c : CloseCause) (s : State) (i : Slot) :
    (closeInterval t d c s).ctx i = { (s.settled t d c).ctx i with
      average := if (s.ctx i).life = .active then
          (s.ctx i).average.put d (averageUpdate s.profile.rounding s.profile.smoothing ((s.ctx i).average.at d)
            (deliveredOf c (s.records.filter (·.inClose t d)) i))
        else (s.ctx i).average } := by
  have hp : (s.settled t d c).profile = s.profile := (settled_keeps s t d c).profile_eq (by decide)
  have hc : (s.settled t d c).ctx i = { s.ctx i with
      pending := ((s.settled t d c).ctx i).pending, backlog := ((s.settled t d c).ctx i).backlog } :=
    (foldl_pending (settleRecord_eq c) _ (s.writeCause t d c) i).2
  rw [closeInterval_ctx, updateAverages, ofFn_ctx]
  dsimp only
  rw [← State.settled, hp]
  generalize (s.settled t d c).ctx i = x at hc ⊢
  rw [hc]
  dsimp only
  split <;> rfl

theorem closeInterval_pending (t : Interval) (d : Direction) (c : CloseCause) (s : State) (i : Slot) (e : Direction) :
    ((closeInterval t d c s).ctx i).pending.at e = (s.ctx i).pending.at e - s.sumOver (·.inClose t d) (·.granted) i e := by
  rw [closeInterval_ctx_of, sumOver_eq]
  exact (foldl_pending (settleRecord_eq c) (s.records.filter (·.inClose t d)) (s.writeCause t d c) i).1 e

theorem closeInterval_backlog (t : Interval) (d : Direction) (c : CloseCause) {s : State} (hb : BacklogLaw s) (i : Slot)
    (e : Direction) : ((closeInterval t d c s).ctx i).backlog.at e =
      min backlogMax ((s.ctx i).backlog.at e + s.sumOver (·.inClose t d) (fun r => r.granted - r.settled c) i e) := by
  rw [closeInterval_ctx_of, sumOver_eq]
  exact (foldl_bits (settleRecord_eq c) (s.records.filter (·.inClose t d)) (s.writeCause t d c) hb i).2.1 e

/-- A close leaves all of a context but pending, backlog and average alone. -/
theorem closeInterval_ctx_eq (t : Interval) (d : Direction) (c : CloseCause) (s : State) (i : Slot) :
    (closeInterval t d c s).ctx i = { s.ctx i with
      pending := ((closeInterval t d c s).ctx i).pending, backlog := ((closeInterval t d c s).ctx i).backlog,
      average := ((closeInterval t d c s).ctx i).average } := by
  have hc : (s.settled t d c).ctx i = { s.ctx i with
      pending := ((s.settled t d c).ctx i).pending, backlog := ((s.settled t d c).ctx i).backlog } :=
    (foldl_pending (settleRecord_eq c) _ (s.writeCause t d c) i).2
  rw [closeInterval_ctx_of]
  generalize (s.settled t d c).ctx i = x at hc ⊢
  rw [hc]

theorem settled_eq_getD (c : CloseCause) (r : Record) :
    r.settled c = r.delivered.getD (if c = .last then 0 else r.granted) := by
  unfold Record.settled
  cases r.delivered with
  | some v => rfl
  | none => cases c <;> rfl

theorem sumOf_eq_of_filter {rs : List Record} {bits : Record → Nat} {i : Slot} {d : Direction}
    (h : ∀ r ∈ rs, r.dir = d) : sumOf rs bits i d = ((rs.filter fun r => decide (r.slot = i) && !r.orphan).map bits).sum := by
  unfold sumOf
  congr 2
  refine List.filter_congr fun r hr => ?_
  rw [h r hr]
  simp

/-- With one record at most of a slot in a close, the delivered figure is the sum over the slot's records (R136, R146). -/
theorem deliveredOf_eq_sum (c : CloseCause) {rs : List Record} {i : Slot} {d : Direction} (h : ∀ r ∈ rs, r.dir = d)
    (hone : (rs.filter fun r => decide (r.slot = i) && !r.orphan).length ≤ 1) :
    deliveredOf c rs i = sumOf rs (Record.settled c) i d := by
  rw [sumOf_eq_of_filter h, deliveredOf, ← List.head?_filter]
  generalize rs.filter (fun r => decide (r.slot = i) && !r.orphan) = mine at hone
  match mine, hone with
  | [], _ => rfl
  | [r], _ => simp

/-- Writing a close cause and leaving out the entry it is written into leaves the entry out. -/
theorem dropped_writeCause (s : State) (t : Interval) (d : Direction) (c : CloseCause) :
    ((s.writeCause t d c).openIntervals.filter fun o => !(decide (o.interval = t) && decide (o.dir = d))) =
      s.openIntervals.filter fun o => !(decide (o.interval = t) && decide (o.dir = d)) := by
  rw [State.writeCause, setOpenIntervals_openIntervals]
  induction s.openIntervals with
  | nil => rfl
  | cons o os ih =>
    simp only [List.map_cons, List.filter_cons, ih]
    by_cases h : o.interval = t ∧ o.dir = d
    · simp [h]
    · rw [if_neg h]

/-- What a close leaves of the open intervals. -/
theorem closeInterval_openIntervals (t : Interval) (d : Direction) (c : CloseCause) (s : State) :
    (closeInterval t d c s).openIntervals =
      s.openIntervals.filter fun o => !(decide (o.interval = t) && decide (o.dir = d)) := by
  rw [← dropped_writeCause s t d c]
  have hsettled := (Keeps.foldl (settleRecord_keeps c) (s.records.filter (·.inClose t d)) (s.writeCause t d c)
    ).openIntervals_eq (by decide)
  rw [← hsettled]
  simp only [closeInterval, State.dropOpen, updateAverages, setRegister_openIntervals, setOpenIntervals_openIntervals,
    setRecords_openIntervals, setContexts_openIntervals]

/-- What a close leaves of the register: all of it while the other direction is open (R137, R143). -/
theorem closeInterval_register (t : Interval) (d : Direction) (c : CloseCause) (s : State) :
    (closeInterval t d c s).register =
      if (closeInterval t d c s).openIntervals.any fun o => decide (o.interval = t) then s.register
      else s.register.filter fun e => !decide (e.interval = t) := by
  have hreg : (s.settled t d c).register = s.register := (settled_keeps s t d c).register_eq (by decide)
  rw [← hreg]
  simp only [closeInterval, State.dropOpen, updateAverages, setRegister_openIntervals, setOpenIntervals_openIntervals,
    setRecords_openIntervals, setContexts_openIntervals, setRegister_register, setRecords_register, setContexts_register]
  rfl

theorem any_open_left {s : State} {t : Interval} {d : Direction} :
    ((s.openIntervals.filter fun o => !(decide (o.interval = t) && decide (o.dir = d))).any fun o => decide (o.interval = t)) =
      true ↔ ∃ o ∈ s.openIntervals, o.interval = t ∧ o.dir ≠ d := by
  simp only [List.any_eq_true, List.mem_filter, decide_eq_true_eq, Bool.not_eq_true', Bool.and_eq_false_iff,
    decide_eq_false_iff_not]
  constructor
  · rintro ⟨o, ⟨ho, hne⟩, ht⟩
    exact ⟨o, ho, ht, hne.resolve_left (not_not_intro ht)⟩
  · rintro ⟨o, ho, ht, hne⟩
    exact ⟨o, ⟨ho, .inr hne⟩, ht⟩

theorem closeInterval_average (t : Interval) (d : Direction) (c : CloseCause) (s : State) (i : Slot) (e : Direction) :
    ((closeInterval t d c s).ctx i).average.at e = if (s.ctx i).life = .active ∧ d = e then
      averageUpdate s.profile.rounding s.profile.smoothing ((s.ctx i).average.at d)
        (deliveredOf c (s.records.filter (·.inClose t d)) i) else (s.ctx i).average.at e := by
  rw [closeInterval_ctx_of]
  dsimp only
  by_cases ha : (s.ctx i).life = .active
  · simp [ha]
  · simp [ha]

/-- Settles O46: the fold over the records of the close, the averages, and the two lists. -/
theorem closeSettles : Obligations.CloseSettles := by
  intro n d cause s hb mine settled t
  have hreg := closeInterval_register n d cause s
  rw [closeInterval_openIntervals] at hreg
  have hmine : (Record.inClose · n d) = mine := rfl
  have hsettled : Record.settled cause = settled := funext (settled_eq_getD cause)
  refine ⟨closeInterval_records n d cause s, closeInterval_openIntervals n d cause s, fun hother => ?_, fun hnone => ?_,
    closeInterval_pending n d cause s, fun i e => ?_, fun i ha hone => ?_, fun i e hne => ?_,
    closeInterval_ctx_eq n d cause s, closeInterval_keeps n d cause s⟩
  · rw [hreg, if_pos (any_open_left.mpr hother)]
  · rw [hreg, if_neg fun h => ?_]
    obtain ⟨o, ho, hn, hd⟩ := any_open_left.mp h
    exact hd (hnone o ho hn)
  · rw [closeInterval_backlog n d cause hb, hsettled]
    rfl
  · rw [closeInterval_average, if_pos ⟨ha, rfl⟩, sumOver_eq, ← hsettled,
      deliveredOf_eq_sum cause (d := d) ?_ ?_]
    · rfl
    · exact fun r hr => of_decide_eq_true (Bool.and_eq_true_iff.mp (List.mem_filter.mp hr).2).2
    · rw [List.filter_filter]
      refine le_of_eq_of_le (congrArg List.length (List.filter_congr fun r _ => ?_)) hone
      show (decide (r.slot = i) && !r.orphan && mine r) = _
      cases mine r <;> simp
  · rw [closeInterval_average, if_neg fun h => hne.elim (fun h' => h' h.1) fun h' => h' h.2.symm]

/-! ### The discard at a timing fault -/

theorem returnBits_eq (s : State) (r : Record) : returnBits s r =
    if r.orphan then s else s.putCtx r.slot { s.ctx r.slot with
      pending := (s.ctx r.slot).pending.put r.dir ((s.ctx r.slot).pending.at r.dir - 0)
      backlog := (s.ctx r.slot).backlog.put r.dir (min backlogMax ((s.ctx r.slot).backlog.at r.dir + r.granted)) } := by
  have hput : ∀ (b : Both Nat) (d : Direction), b.put d (b.at d - 0) = b := fun b d => by cases d <;> rfl
  rw [hput]
  rfl

/-- What the discard leaves of pending: none in a context in use (R148). -/
theorem discardRecords_pending (s : State) (i : Slot) (d : Direction) : ((discardRecords s).ctx i).pending.at d =
    if (s.ctx i).inUse then 0 else (s.ctx i).pending.at d := by
  obtain ⟨hp, hc⟩ := foldl_pending returnBits_eq s.records s i
  have huse : ((s.records.foldl returnBits s).ctx i).inUse = (s.ctx i).inUse := by rw [hc]; rfl
  rw [discardRecords_ctx, huse]
  split
  · cases d <;> rfl
  · rw [hp, sumOf]
    simp

theorem discardRecords_backlog {s : State} (hb : BacklogLaw s) (i : Slot) (d : Direction) :
    ((discardRecords s).ctx i).backlog.at d = min backlogMax ((s.ctx i).backlog.at d + s.outstanding i d) := by
  have hsum : s.outstanding i d = sumOf s.records (·.granted) i d := by
    rw [State.outstanding, sumOver_eq, List.filter_true]
  rw [discardRecords_ctx, apply_ite Context.backlog, ite_self, hsum]
  exact (foldl_bits returnBits_eq s.records s hb i).2.1 d

/-- The discard leaves all of a context but pending and backlog alone. -/
theorem discardRecords_ctx_eq (s : State) (i : Slot) : (discardRecords s).ctx i = { s.ctx i with
    pending := ((discardRecords s).ctx i).pending, backlog := ((discardRecords s).ctx i).backlog } := by
  have hc := (foldl_pending returnBits_eq s.records s i).2
  rw [discardRecords_ctx]
  generalize (s.records.foldl returnBits s).ctx i = x at hc ⊢
  rw [hc]
  split <;> rfl

end Sys2Proof.Machine
end

section
/-! The law of the table and of the tag map (R16, R17, R19), as a law of what is stored. -/
namespace Sys2Proof.Machine

/-- The context is held as `c` was: by the same terminal, under the same tag. -/
def Context.HeldAs (c c' : Context) : Prop := c'.tag = c.tag ∧ c'.identity = c.identity ∧ c'.inUse = c.inUse

theorem Context.Like.heldAs {p : Profile} {c c' : Context} (h : c.Like p c') : c.HeldAs c' :=
  ⟨h.1, h.2.1, h.2.2.1⟩

/-- A change of pending, backlog and average leaves who holds a context alone. -/
theorem heldAs_of_eq {c c' : Context} {pending backlog average : Both Nat}
    (h : c' = { c with pending := pending, backlog := backlog, average := average }) : c.HeldAs c' := by
  subst h
  exact ⟨rfl, rfl, rfl⟩

theorem heldAs_rollback (p : Record → Bool) (s : State) (i : Slot) : (s.ctx i).HeldAs ((rollbackWhere p s).ctx i) :=
  heldAs_of_eq (rollbackWhere_ctx_eq p s i)

theorem heldAs_close (t : Interval) (d : Direction) (c : CloseCause) (s : State) (i : Slot) :
    (s.ctx i).HeldAs ((closeInterval t d c s).ctx i) := heldAs_of_eq (closeInterval_ctx_eq t d c s i)

theorem heldAs_discard (s : State) (i : Slot) : (s.ctx i).HeldAs ((discardRecords s).ctx i) :=
  heldAs_of_eq (discardRecords_ctx_eq s i)

theorem heldAs_putCtx {s : State} {i : Slot} {c : Context} (hc : (s.ctx i).HeldAs c) (j : Slot) :
    (s.ctx j).HeldAs ((s.putCtx i c).ctx j) := by
  rw [putCtx_ctx]
  split
  · next e => rw [← e]; exact hc
  · exact ⟨rfl, rfl, rfl⟩

/-! ### Tags taken -/

theorem tagsTaken_le_of_imp {s t : State} (h : ∀ g, (s.tagEntry g).unassigned = true → (t.tagEntry g).unassigned = true) :
    t.tagsTaken ≤ s.tagsTaken := by
  refine (List.monotone_filter_right _ fun g hg => ?_).length_le
  rw [Bool.not_eq_true'] at hg ⊢
  exact Bool.eq_false_iff.mpr fun hs => Bool.eq_false_iff.mp hg (h g hs)

/-- One tag taken more, at most. -/
theorem tagsTaken_le_succ {s t : State} {g : Tag} (h : ∀ g', g' ≠ g → t.tagEntry g' = s.tagEntry g') :
    t.tagsTaken ≤ s.tagsTaken + 1 := by
  have hsub : (allTags.filter fun k => !(t.tagEntry k).unassigned) ⊆
      g :: allTags.filter fun k => !(s.tagEntry k).unassigned := by
    intro k hk
    by_cases hkg : k = g
    · exact hkg ▸ List.mem_cons_self
    · rw [List.mem_filter, h k hkg] at hk
      exact List.mem_cons_of_mem _ (List.mem_filter.mpr hk)
  exact (((List.nodup_finRange 256).filter _).subperm hsub).length_le

/-- An unassigned tag names no slot and is not quarantined. -/
theorem unassigned_iff (e : TagEntry) : e.unassigned = true ↔ e.slot = none ∧ e.quarantine = 0 := by
  simp [TagEntry.unassigned]

/-! ### The law of the table -/

theorem tableLaw_fresh {s : State} (hc : ∀ i, s.ctx i = Context.free) (ht : ∀ g, s.tagEntry g = ⟨none, 0⟩) : TableLaw s := by
  refine ⟨fun g i h => ?_, fun i g h => ?_, fun i => ?_, fun i => ?_, fun i j h => ?_, ?_⟩
  · rw [State.slotOf, ht] at h; cases h
  · rw [hc] at h; cases h
  · rw [hc]; decide
  · rw [hc]; decide
  · rw [hc] at h; cases h
  · simp [State.tagsTaken, ht, TagEntry.unassigned]

/-- Contexts held as before, every tag at its slot, quarantines of no more tags. -/
theorem TableLaw.of_heldAs {s t : State} (h : TableLaw s) (hc : ∀ i, (s.ctx i).HeldAs (t.ctx i))
    (hslot : ∀ g, t.slotOf g = s.slotOf g)
    (hq : ∀ g, (s.tagEntry g).quarantine = 0 → (t.tagEntry g).quarantine = 0) : TableLaw t := by
  obtain ⟨hnames, htag, huse, hid, hunique, htaken⟩ := h
  refine ⟨fun g i hi => ?_, fun i g hg => ?_, fun i => ?_, fun i => ?_, fun i j hu he => ?_,
    (tagsTaken_le_of_imp fun g hg => ?_).trans htaken⟩
  · rw [hslot] at hi
    rw [(hc i).1]
    exact ⟨(hnames g i hi).1, hq g (hnames g i hi).2⟩
  · rw [(hc i).1] at hg
    rw [hslot, htag i g hg]
  · rw [(hc i).1, (hc i).2.2]; exact huse i
  · rw [(hc i).2.1, (hc i).2.2]; exact hid i
  · rw [(hc i).2.2] at hu
    rw [(hc i).2.1, (hc j).2.1] at he
    exact hunique i j hu he
  · rw [unassigned_iff] at hg ⊢
    exact ⟨(hslot g).trans hg.1, hq g hg.2⟩

theorem TableLaw.of_keeps {l : List Field} {s t : State} (h : TableLaw s) (hk : Keeps l s t) (htags : .tags ∉ l)
    (hc : ∀ i, (s.ctx i).HeldAs (t.ctx i)) : TableLaw t :=
  h.of_heldAs hc (fun g => hk.slotOf_eq htags g) fun g hg => by rwa [hk.tagEntry_eq htags]

/-- A release frees the slot and quarantines the tag (R19, R30). -/
theorem TableLaw.freed {s t : State} {i : Slot} {g : Tag} (h : TableLaw s) (hg : (s.ctx i).tag = some g)
    (hc : ∀ j, t.ctx j = if i = j then Context.free else s.ctx j)
    (ht : ∀ k, t.tagEntry k = if g = k then ⟨none, 64⟩ else s.tagEntry k) : TableLaw t := by
  obtain ⟨hnames, htag, huse, hid, hunique, htaken⟩ := h
  have hslot : ∀ k, t.slotOf k = if g = k then none else s.slotOf k := fun k => by
    rw [State.slotOf, ht]; split <;> rfl
  refine ⟨fun k j hj => ?_, fun j k hk => ?_, fun j => ?_, fun j => ?_, fun j k hu he => ?_,
    (tagsTaken_le_of_imp fun k hk => ?_).trans htaken⟩
  · rw [hslot] at hj
    split at hj
    · cases hj
    · next hgk =>
      obtain ⟨hjk, hq⟩ := hnames k j hj
      have hij : i ≠ j := fun e => hgk (Option.some.inj (hg.symm.trans (e ▸ hjk)))
      rw [hc, if_neg hij, ht, if_neg hgk]
      exact ⟨hjk, hq⟩
  · rw [hc] at hk
    split at hk
    · cases hk
    · next hij =>
      have hkj := htag j k hk
      have hgk : g ≠ k := fun e => hij (Option.some.inj ((htag i g hg).symm.trans (e ▸ hkj)))
      rw [hslot, if_neg hgk, hkj]
  · rw [hc]; split
    · decide
    · exact huse j
  · rw [hc]; split
    · decide
    · exact hid j
  · rw [hc] at hu
    rw [hc, hc k] at he
    split at hu
    · cases hu
    · next hij =>
      rw [if_neg hij] at he
      split at he
      · exact absurd he ((hid j).mp hu)
      · exact hunique j k hu he
  · rw [unassigned_iff] at hk
    have hgk : g ≠ k := fun e => by
      have := (htag i g hg).symm.trans (e ▸ hk.1)
      cases this
    rw [ht, if_neg hgk, unassigned_iff]
    exact hk

theorem of_holder_none {s : State} {x : Identity} (h : s.holder x = none) (i : Slot) (hu : (s.ctx i).inUse = true) :
    (s.ctx i).identity ≠ some x := by
  have := List.find?_eq_none.mp h i (mem_allSlots i)
  simpa [hu] using this

/-- Room in the table: fewer than 192 tags taken, a slot not in use, an unassigned tag (R19, R20). -/
theorem of_room {s : State} {i : Slot} {g : Tag} (h : s.room = some (i, g)) :
    s.tagsTaken < 192 ∧ (s.ctx i).inUse = false ∧ (s.tagEntry g).slot = none ∧ (s.tagEntry g).quarantine = 0 := by
  unfold State.room at h
  split at h
  · next hlt =>
    split at h
    · next j k hslot htag =>
      obtain ⟨rfl, rfl⟩ := Prod.mk.inj (Option.some.inj h)
      refine ⟨hlt, by simpa using List.find?_some hslot, ?_⟩
      exact (unassigned_iff _).mp (List.find?_some (p := fun g => (s.tagEntry g).unassigned) htag)
    · cases h
  · cases h

/-- A new terminal takes a slot not in use and an unassigned tag (R20, R21). -/
theorem TableLaw.newcomer {s t : State} {i : Slot} {g : Tag} {x : Identity} {c : Context} (h : TableLaw s)
    (hroom : s.room = some (i, g)) (hx : s.holder x = none) (hcx : c.identity = some x) (hcg : c.tag = some g)
    (hcu : c.inUse = true) (hc : ∀ j, t.ctx j = if i = j then c else s.ctx j)
    (ht : ∀ k, t.tagEntry k = if g = k then ⟨some i, 0⟩ else s.tagEntry k) : TableLaw t := by
  obtain ⟨hnames, htag, huse, hid, hunique, htaken⟩ := h
  obtain ⟨hlt, hfree, hslotg, -⟩ := of_room hroom
  have hslot : ∀ k, t.slotOf k = if g = k then some i else s.slotOf k := fun k => by
    rw [State.slotOf, ht]; split <;> rfl
  have other : ∀ {j k}, (s.ctx j).tag = some k → i ≠ j ∧ g ≠ k := fun {j k} hjk => by
    refine ⟨fun e => ?_, fun e => ?_⟩
    · have hu := (huse j).mpr (by rw [hjk]; exact Option.some_ne_none k)
      rw [← e, hfree] at hu; cases hu
    · have := hslotg.symm.trans (e ▸ htag j k hjk)
      cases this
  refine ⟨fun k j hj => ?_, fun j k hk => ?_, fun j => ?_, fun j => ?_, fun j k hu he => ?_, ?_⟩
  · rw [hslot] at hj
    split at hj
    · next hgk =>
      obtain rfl := Option.some.inj hj
      rw [hc, if_pos rfl, ht, if_pos hgk, hcg, hgk]
      exact ⟨rfl, rfl⟩
    · next hgk =>
      obtain ⟨hjk, hq⟩ := hnames k j hj
      rw [hc, if_neg (other hjk).1, ht, if_neg hgk]
      exact ⟨hjk, hq⟩
  · rw [hc] at hk
    split at hk
    · next hij =>
      obtain rfl := Option.some.inj (hcg.symm.trans hk)
      rw [hslot, if_pos rfl, hij]
    · rw [hslot, if_neg (other hk).2]
      exact htag j k hk
  · rw [hc]; split
    · simp [hcu, hcg]
    · exact huse j
  · rw [hc]; split
    · simp [hcu, hcx]
    · exact hid j
  · rw [hc, hc k] at he
    rw [hc] at hu
    split at he
    · next hij =>
      split at he
      · next hik => exact hij.symm.trans hik
      · have hk := (hid k).mpr (by rw [← he, hcx]; exact Option.some_ne_none x)
        exact absurd (he.symm.trans hcx) (of_holder_none hx k hk)
    · next hij =>
      rw [if_neg hij] at hu
      split at he
      · exact absurd (he.trans hcx) (of_holder_none hx j hu)
      · exact hunique j k hu he
  · exact (tagsTaken_le_succ (s := s) (g := g) fun k hk => by rw [ht, if_neg (Ne.symm hk)]).trans (by omega)

theorem TableLaw.setTags {s : State} (v : Vector TagEntry 256) (h : TableLaw s)
    (hslot : ∀ g : Tag, v[g].slot = (s.tagEntry g).slot)
    (hq : ∀ g : Tag, (s.tagEntry g).quarantine = 0 → v[g].quarantine = 0) : TableLaw (s.setTags v) :=
  h.of_heldAs (fun _ => ⟨rfl, rfl, rfl⟩) hslot hq

theorem tableLaw_storeLaw : StoreLaw TableLaw where
  frame hk hl h := h.of_keeps hk (fun hm => hl _ hm (by decide)) fun i => by
    rw [hk.ctx_eq fun hm => hl _ hm (by decide)]; exact ⟨rfl, rfl, rfl⟩
  hardwareReset s := tableLaw_fresh (fun i => by simp [hardwareReset, State.reset, State.ctx])
    fun g => by simp [hardwareReset, State.reset, State.tagEntry]
  loadProfile im s _ h := h.of_keeps (loadProfile_keeps im s) (by decide) fun i => by
    rw [(loadProfile_keeps im s).ctx_eq (by decide)]; exact ⟨rfl, rfl, rfl⟩
  stationReset s _ := tableLaw_fresh (fun i => by simp [stationReset, State.reset, State.ctx])
    fun g => by simp [stationReset, State.reset, State.tagEntry]
  raise c s h := h.of_keeps (raise_keeps c s) (by decide) fun i => by
    rw [(raise_keeps c s).ctx_eq (by decide)]; exact ⟨rfl, rfl, rfl⟩
  queued _ _ _ _ _ h := h
  remove _ _ _ _ h := h
  clearWire _ h := h
  beginWire _ _ h := h
  retry _ _ _ _ h := h
  receive x s h := h.of_keeps (receive_keeps x s) (by decide) fun i => by
    rw [(receive_keeps x s).ctx_eq (by decide)]; exact ⟨rfl, rfl, rfl⟩
  takeRx _ _ _ _ h := h
  rollback p s h := h.of_keeps (rollbackWhere_keeps p s) (by decide) (heldAs_rollback p s)
  close t d c s h := h.of_keeps (closeInterval_keeps t d c s) (by decide) (heldAs_close t d c s)
  discard s h := h.of_keeps (discardRecords_keeps s) (by decide) (heldAs_discard s)
  usage _ _ _ _ h := h
  carry _ _ _ h := h
  put {i c s} hc h := h.of_keeps (putCtx_keeps s i c) (by decide) (heldAs_putCtx hc.heldAs)
  puts hc h := h.of_keeps (setContexts_keeps _ _) (by decide) fun i => by rw [ofFn_ctx]; exact (hc i).heldAs
  grant t g n s _ _ h := h.of_keeps (recordGrant_keeps t g n s) (by decide) fun i => by
    rw [recordGrant, setRecords_ctx]
    exact heldAs_putCtx (c := (s.ctx g.slot).grantBits g.dir n) ⟨rfl, rfl, rfl⟩ i
  free i g s hg h := h.freed hg (fun j => putCtx_ctx _ i _ j) (fun k => putTag_tagEntry _ g _ k)
  newcomer a i g s hroom hx _ h := h.newcomer hroom hx rfl rfl rfl (fun j => putCtx_ctx _ i _ j)
    fun k => putTag_tagEntry _ g _ k
  release g s h := h.of_heldAs (fun _ => ⟨rfl, rfl, rfl⟩)
    (fun k => by
      rw [State.slotOf, putTag_tagEntry]
      split
      · next e => rw [e]; rfl
      · rfl)
    fun k hk => by
      rw [putTag_tagEntry]
      split
      · rfl
      · exact hk
  count s h := h.setTags _ (fun g => by
      rw [Fin.getElem_fin, Vector.getElem_ofFn, TagEntry.pulsed]
      split <;> rfl)
    fun g hg => by
      rw [Fin.getElem_fin, Vector.getElem_ofFn, TagEntry.pulsed]
      exact (congrArg TagEntry.quarantine (if_pos (by show (s.tagEntry g).quarantine ≤ 1; omega))).trans hg

/-- Settles O58: the law is one of what is stored. -/
theorem tableLawKept : Obligations.TableLawKept := fun _ _ hst ht e =>
  step_preserved tableLaw_storeLaw.preserved (fun _ _ h => h) hst ht e

end Sys2Proof.Machine
end

section
/-! The law of pending (R140), with the law of the table as a law of what is stored. -/
namespace Sys2Proof.Machine

/-! ### Sums over records -/

theorem outstanding_eq (s : State) (i : Slot) (d : Direction) : s.outstanding i d = sumOf s.records (·.granted) i d := by
  rw [State.outstanding, sumOver_eq, List.filter_true]

theorem sumOf_append (rs rs' : List Record) (bits : Record → Nat) (i : Slot) (d : Direction) :
    sumOf (rs ++ rs') bits i d = sumOf rs bits i d + sumOf rs' bits i d := by
  simp [sumOf]

/-- Nothing is summed over a slot without an unorphaned record. -/
theorem sumOf_eq_zero {rs : List Record} {bits : Record → Nat} {i : Slot} {d : Direction}
    (h : ∀ r ∈ rs, r.slot = i → r.orphan = true) : sumOf rs bits i d = 0 := by
  rw [sumOf, List.filter_eq_nil_iff.mpr, List.map_nil, List.sum_nil]
  intro r hr hm
  simp only [Bool.and_eq_true, decide_eq_true_eq, Bool.not_eq_true'] at hm
  rw [h r hr hm.1.1] at hm
  cases hm.2

/-- A rewriting of records that leaves slot, direction, orphan flag and bits of a slot's records alone leaves their sum. -/
theorem sumOf_map {rs : List Record} {bits : Record → Nat} {f : Record → Record} {i : Slot} {d : Direction}
    (hf : ∀ r ∈ rs, (f r).slot = r.slot ∧
      (r.slot = i → (f r).dir = r.dir ∧ (f r).orphan = r.orphan ∧ bits (f r) = bits r)) :
    sumOf (rs.map f) bits i d = sumOf rs bits i d := by
  induction rs with
  | nil => rfl
  | cons r rs ih =>
    obtain ⟨hslot, hrest⟩ := hf r List.mem_cons_self
    rw [List.map_cons, sumOf_cons, sumOf_cons, ih fun x hx => hf x (List.mem_cons_of_mem _ hx), hslot]
    by_cases hi : r.slot = i
    · rw [(hrest hi).1, (hrest hi).2.1, (hrest hi).2.2]
    · simp [hi]

/-! ### The law of pending -/

theorem pendingLaw_iff (s : State) : PendingLaw s ↔
    (∀ i d, (s.ctx i).pending.at d = sumOf s.records (·.granted) i d) ∧
      ∀ r ∈ s.records, r.orphan = false → (s.ctx r.slot).tag = some r.tag := by
  simp only [PendingLaw, outstanding_eq]

theorem pendingLaw_fresh {s : State} (hc : ∀ i, s.ctx i = Context.free) (hr : s.records = []) : PendingLaw s := by
  refine ⟨fun i d => ?_, fun r h => ?_⟩
  · rw [hc, outstanding_eq, hr]; cases d <;> rfl
  · rw [hr] at h; cases h

/-- The records that stay, and the pending bits less what the others were granted. -/
theorem PendingLaw.removed {s t : State} {p : Record → Bool} (h : PendingLaw s)
    (hr : t.records = s.records.filter fun r => !p r) (hc : ∀ i, (s.ctx i).HeldAs (t.ctx i))
    (hp : ∀ i d, (t.ctx i).pending.at d = (s.ctx i).pending.at d - s.sumOver p (·.granted) i d) : PendingLaw t := by
  rw [pendingLaw_iff] at *
  refine ⟨fun i d => ?_, fun r hmem ho => ?_⟩
  · rw [hp, h.1, hr, sumOver_eq, sumOf_filter_add s.records _ p]
    omega
  · rw [hr] at hmem
    rw [(hc _).1]
    exact h.2 r (List.mem_filter.mp hmem).1 ho

/-- Contexts and records rewritten without a change of what the law reads. -/
theorem PendingLaw.rewritten {s t : State} {f : Record → Record} (h : PendingLaw s) (hr : t.records = s.records.map f)
    (hc : ∀ i, (t.ctx i).tag = (s.ctx i).tag ∧ (t.ctx i).pending = (s.ctx i).pending)
    (hf : ∀ r, (f r).slot = r.slot ∧ (f r).tag = r.tag ∧ (f r).dir = r.dir ∧ (f r).orphan = r.orphan ∧
      (f r).granted = r.granted) : PendingLaw t := by
  rw [pendingLaw_iff] at *
  refine ⟨fun i d => ?_, fun r hmem ho => ?_⟩
  · rw [(hc i).2, h.1, hr, sumOf_map fun r _ => ⟨(hf r).1, fun _ => (hf r).2.2⟩]
  · rw [hr] at hmem
    obtain ⟨r, hin, rfl⟩ := List.mem_map.mp hmem
    obtain ⟨hslot, htag, -, horphan, -⟩ := hf r
    rw [hslot, htag, (hc _).1]
    exact h.2 r hin (horphan.symm.trans ho)

theorem PendingLaw.of_ctx {s t : State} (h : PendingLaw s) (hr : t.records = s.records)
    (hc : ∀ i, (t.ctx i).tag = (s.ctx i).tag ∧ (t.ctx i).pending = (s.ctx i).pending) : PendingLaw t :=
  h.rewritten (f := id) (hr.trans (List.map_id _).symm) hc fun _ => ⟨rfl, rfl, rfl, rfl, rfl⟩

theorem PendingLaw.setContexts {s : State} (v : Vector Context 96) (h : PendingLaw s)
    (hv : ∀ i : Slot, v[i].tag = (s.ctx i).tag ∧ v[i].pending = (s.ctx i).pending) : PendingLaw (s.setContexts v) :=
  h.of_ctx rfl hv

theorem PendingLaw.of_keeps {l : List Field} {s t : State} (h : PendingLaw s) (hk : Keeps l s t)
    (hl : ∀ f ∈ l, f ∉ [Field.contexts, .records]) : PendingLaw t :=
  h.of_ctx (hk.records_eq fun hm => hl _ hm (by decide)) fun i => by
    rw [hk.ctx_eq fun hm => hl _ hm (by decide)]
    exact ⟨rfl, rfl⟩

/-- A slot not in use has no unorphaned record. -/
theorem PendingLaw.orphan_of_unused {s : State} (ht : TableLaw s) (h : PendingLaw s) {i : Slot}
    (hu : (s.ctx i).inUse = false) : ∀ r ∈ s.records, r.slot = i → r.orphan = true := by
  intro r hr hi
  by_contra ho
  have htag := h.2 r hr (Bool.eq_false_iff.mpr ho)
  rw [hi] at htag
  have := (ht.2.2.1 i).mpr (by rw [htag]; exact Option.some_ne_none _)
  rw [hu] at this
  cases this

theorem PendingLaw.discarded {s : State} (ht : TableLaw s) (h : PendingLaw s) : PendingLaw (discardRecords s) := by
  rw [pendingLaw_iff]
  refine ⟨fun i d => ?_, fun r hr => ?_⟩
  · rw [discardRecords_pending]
    change _ = 0
    split
    · rfl
    · next hu =>
      rw [h.1 i d, outstanding_eq]
      exact sumOf_eq_zero (h.orphan_of_unused ht (Bool.eq_false_iff.mpr hu))
  · cases hr

theorem PendingLaw.granted {s : State} (ht : TableLaw s) (h : PendingLaw s) {t : Interval} {g : Grant} {n : Nat}
    (hg : s.slotOf g.tag = some g.slot) : PendingLaw (recordGrant t g n s) := by
  have htag : ∀ i, ((recordGrant t g n s).ctx i).tag = (s.ctx i).tag := fun i => by
    rw [recordGrant, setRecords_ctx]
    exact (heldAs_putCtx (c := (s.ctx g.slot).grantBits g.dir n) ⟨rfl, rfl, rfl⟩ i).1
  have hr : (recordGrant t g n s).records = s.records ++ [g.record t n] := rfl
  rw [pendingLaw_iff] at *
  refine ⟨fun i d => ?_, fun r hmem ho => ?_⟩
  · rw [hr, sumOf_append, ← h.1, sumOf_cons, recordGrant, setRecords_ctx, putCtx_ctx]
    by_cases hi : g.slot = i
    · subst hi
      by_cases hd : g.dir = d <;> simp [Context.grantBits, Grant.record, sumOf, hd]
    · simp [hi, Grant.record, sumOf]
  · rw [htag]
    rw [hr] at hmem
    rcases List.mem_append.mp hmem with hmem | hmem
    · exact h.2 r hmem ho
    · rw [List.mem_singleton.mp hmem]
      exact (ht.1 _ _ hg).1

/-- Composition removes records of released contexts alone, and these are orphans (R127, R147). -/
theorem PendingLaw.carried {s : State} (ht : TableLaw s) (h : PendingLaw s) (t : Interval) (es : List ListEntry) :
    PendingLaw (s.setRecords (carryRecords s t es)) := by
  have kept : PendingLaw (s.setRecords (s.records.filter fun r => !(decide (r.interval = t) && !s.tagValid r.tag))) := by
    refine h.removed (p := fun r => decide (r.interval = t) && !s.tagValid r.tag) rfl (fun _ => ⟨rfl, rfl, rfl⟩)
      fun i d => ?_
    rw [sumOver_eq, sumOf_eq_zero fun r hr hi => ?_]
    · rfl
    · rw [List.mem_filter] at hr
      by_contra ho
      have hvalid := ht.2.1 _ _ (h.2 r hr.1 (Bool.eq_false_iff.mpr ho))
      simp [State.tagValid, hvalid] at hr
  refine kept.rewritten (f := fun r => if r.interval = t then
      { r with carrier := (es.findIdx? fun e => e.isOf r).map fun n => n / 15 } else r) rfl (fun _ => ⟨rfl, rfl⟩)
    fun r => ?_
  split <;> exact ⟨rfl, rfl, rfl, rfl, rfl⟩

/-- A release orphans every record of its context (R147). -/
theorem PendingLaw.freed {s t : State} {i : Slot} {g : Tag} (h : PendingLaw s) (hg : (s.ctx i).tag = some g)
    (hc : ∀ j, t.ctx j = if i = j then Context.free else s.ctx j)
    (hr : t.records = s.records.map fun r => if r.slot = i ∧ r.tag = g then { r with orphan := true } else r) :
    PendingLaw t := by
  have hmine : ∀ r ∈ s.records, r.slot = i → r.orphan = false → r.tag = g := fun r hmem hi ho =>
    (Option.some.inj (hg.symm.trans (hi ▸ h.2 r hmem ho))).symm
  rw [pendingLaw_iff] at *
  rw [hr]
  refine ⟨fun j d => ?_, fun r hmem ho => ?_⟩
  · rw [hc]
    split
    · next hij =>
      rw [sumOf_eq_zero fun r hmem hslot => ?_]
      · cases d <;> rfl
      · obtain ⟨r, hin, rfl⟩ := List.mem_map.mp hmem
        split
        · rfl
        · next hne =>
          rw [if_neg hne] at hslot
          by_contra ho
          have hi := hslot.trans hij.symm
          exact hne ⟨hi, hmine r hin hi (Bool.eq_false_iff.mpr ho)⟩
    · next hij =>
      rw [h.1, sumOf_map]
      intro r _
      split
      · next hmine => exact ⟨rfl, fun hj => absurd (hmine.1.symm.trans hj) hij⟩
      · exact ⟨rfl, fun _ => ⟨rfl, rfl, rfl⟩⟩
  · obtain ⟨r, hin, rfl⟩ := List.mem_map.mp hmem
    split at ho
    · cases ho
    · next hne =>
      have hij : i ≠ r.slot := fun hi => hne ⟨hi.symm, hmine r hin hi.symm ho⟩
      rw [if_neg hne, hc, if_neg hij]
      exact h.2 r hin ho

/-- A new terminal takes a slot without unorphaned records and has nothing pending (R21). -/
theorem PendingLaw.newcomer {s t : State} {i : Slot} {c : Context} (ht : TableLaw s) (h : PendingLaw s)
    (hu : (s.ctx i).inUse = false) (hp : c.pending = ⟨0, 0⟩) (hc : ∀ j, t.ctx j = if i = j then c else s.ctx j)
    (hr : t.records = s.records) : PendingLaw t := by
  have hnone := h.orphan_of_unused ht hu
  rw [pendingLaw_iff] at *
  rw [hr]
  refine ⟨fun j d => ?_, fun r hmem ho => ?_⟩
  · rw [hc]
    split
    · next hij => rw [hp, ← hij, sumOf_eq_zero hnone]; cases d <;> rfl
    · exact h.1 j d
  · rw [hc, if_neg fun hi => ?_]
    · exact h.2 r hmem ho
    · rw [hnone r hmem hi.symm] at ho; cases ho

theorem keptQueue {s : State} (q : List TxTelegram) (h : TableLaw s ∧ PendingLaw s) :
    TableLaw (s.setTxQueue q) ∧ PendingLaw (s.setTxQueue q) :=
  ⟨h.1, h.2.of_keeps (setTxQueue_keeps s q) (by decide)⟩

theorem pendingLaw_storeLaw : StoreLaw fun s => TableLaw s ∧ PendingLaw s where
  frame hk hl h := ⟨tableLaw_storeLaw.frame hk hl h.1, h.2.of_keeps hk fun f hf hm =>
    have hread : ∀ f ∈ [Field.contexts, .records], f ∈ storing := by decide
    hl f hf (hread f hm)⟩
  hardwareReset s := ⟨tableLaw_storeLaw.hardwareReset s,
    pendingLaw_fresh (fun i => by simp [hardwareReset, State.reset, State.ctx]) rfl⟩
  loadProfile im s hq h := ⟨tableLaw_storeLaw.loadProfile im s hq h.1, h.2.of_keeps (loadProfile_keeps im s) (by decide)⟩
  stationReset s h := ⟨tableLaw_storeLaw.stationReset s h.1,
    pendingLaw_fresh (fun i => by simp [stationReset, State.reset, State.ctx]) rfl⟩
  raise c s h := ⟨tableLaw_storeLaw.raise c s h.1, h.2.of_keeps (raise_keeps c s) (by decide)⟩
  queued _ q s _ _ h := keptQueue q h
  remove _ _ _ _ h := keptQueue _ h
  clearWire _ h := keptQueue _ h
  beginWire _ _ h := keptQueue _ h
  retry _ _ _ _ h := keptQueue _ h
  receive x s h := ⟨tableLaw_storeLaw.receive x s h.1, h.2.of_keeps (receive_keeps x s) (by decide)⟩
  takeRx _ rest s _ h := ⟨h.1, h.2.of_keeps (setRxBuffer_keeps s rest) (by decide)⟩
  rollback p s h := ⟨tableLaw_storeLaw.rollback p s h.1,
    h.2.removed (rollbackWhere_records p s) (heldAs_rollback p s) (rollbackWhere_pending p s)⟩
  close t d c s h := ⟨tableLaw_storeLaw.close t d c s h.1,
    h.2.removed (closeInterval_records t d c s) (heldAs_close t d c s) (closeInterval_pending t d c s)⟩
  discard s h := ⟨tableLaw_storeLaw.discard s h.1, h.2.discarded h.1⟩
  usage t d e s h := ⟨h.1, h.2.rewritten (f := fun r => if r.inClose t d ∧ r.tag = e.1 ∧ r.orphan = false then
      { r with delivered := some (min e.2 r.granted) } else r) rfl (fun _ => ⟨rfl, rfl⟩) fun r => by
    split <;> exact ⟨rfl, rfl, rfl, rfl, rfl⟩⟩
  carry t es s h := ⟨h.1, h.2.carried h.1 t es⟩
  put {i c s} hc h := ⟨tableLaw_storeLaw.put hc h.1, h.2.of_ctx rfl fun j => by
    rw [putCtx_ctx]
    split
    · next e => rw [← e]; exact ⟨hc.1, hc.2.2.2.1⟩
    · exact ⟨rfl, rfl⟩⟩
  puts {v s} hc h := ⟨tableLaw_storeLaw.puts hc h.1, h.2.setContexts _ fun i => by
    rw [Fin.getElem_fin, Vector.getElem_ofFn]; exact ⟨(hc i).1, (hc i).2.2.2.1⟩⟩
  grant t g n s hroom hg h := ⟨tableLaw_storeLaw.grant t g n s hroom hg h.1, h.2.granted h.1 hg⟩
  free i g s hg h := ⟨tableLaw_storeLaw.free i g s hg h.1, h.2.freed hg (fun j => putCtx_ctx _ i _ j) rfl⟩
  newcomer a i g s hroom hx ha h := ⟨tableLaw_storeLaw.newcomer a i g s hroom hx ha h.1,
    h.2.newcomer h.1 (of_room hroom).2.1 rfl (fun j => putCtx_ctx _ i _ j) rfl⟩
  release g s h := ⟨tableLaw_storeLaw.release g s h.1, h.2.of_keeps (putTag_keeps s g _) (by decide)⟩
  count s h := ⟨tableLaw_storeLaw.count s h.1, h.2.of_keeps (setTags_keeps s _) (by decide)⟩

/-- Settles O59: with the law of the table, the law is one of what is stored. -/
theorem pendingLawKept : Obligations.PendingLawKept := fun _ _ hst ht hp e =>
  (step_preserved pendingLaw_storeLaw.preserved (fun _ _ h => h) hst ⟨ht, hp⟩ e).2

end Sys2Proof.Machine
end

section
/-! Commands as a whole: what every command leaves alone (O1 to O4), and what the latest event has left for it to do first. -/
namespace Sys2Proof.Machine

/-- Settles O1: the two equations of `step`. -/
theorem stepRunsFront : Obligations.StepRunsFront := by
  refine ⟨fun c rest s h => ?_, fun s h => ?_⟩ <;> rw [step, h]

/-! ### The frame of a command -/

/-- What a command other than the start-up ones can change. -/
abbrev commanding : List Field := .freeCount :: working

theorem answer_keeps (q : Query) (s : State) : Keeps commanding s (answer q s) := by
  have done : Keeps commanding s (settleDeadlines (settleCloses s)) :=
    ((settleCloses_keeps s).mono (by decide)).andThen (settleDeadlines_keeps _) (by decide)
  cases q with
  | byTag g =>
    change Keeps commanding s (answerTag g _)
    unfold answerTag
    split
    · exact done.andThen (offer_keeps _ _) (by decide)
    · exact done.andThen (offer_keeps _ _) (by decide)
  | ofStation => exact (done.andThen (offer_keeps _ _) (by decide)).andThen (setFreeCount_keeps _ _) (by decide)

theorem retrainTag_frame (g : Tag) (s : State) : Keeps [.contexts] s (retrainTag g s) := by
  unfold retrainTag
  split
  · split
    · exact putCtx_keeps s _ _
    · exact putCtx_keeps s _ _
    all_goals exact Keeps.refl _ s
  · exact Keeps.refl _ s

/-- Every command but the start-up ones completes within its frame. -/
theorem exec_keeps {c : Instr} (hreset : c ≠ .hardwareReset) (hload : ∀ n, c ≠ .loading n)
    (hprofile : ∀ image, c ≠ .profileLoad image) (s : State) : ∃ t, exec c s = .next t ∧ Keeps commanding s t := by
  have ran : ∀ {u}, Keeps commanding (settle s) u →
      ∃ t, (.next u : Host.Outcome State Fault Refusal) = .next t ∧ Keeps commanding s t :=
    fun {u} h => ⟨u, rfl, ((settle_keeps s).mono (by decide)).trans h⟩
  have item : ∀ d, ∃ t, (.next (threshold d s) : Host.Outcome State Fault Refusal) = .next t ∧ Keeps commanding s t :=
    fun d => ⟨_, rfl, (threshold_keeps d s).mono (by decide)⟩
  have head : ∀ {mine act}, (∀ x u, Keeps commanding u (act x u)) →
      ∃ t, (.next (takeHead mine act (settle s)) : Host.Outcome State Fault Refusal) = .next t ∧ Keeps commanding s t :=
    fun hact => ran (takeHead_keeps hact (by decide))
  cases c with
  | hardwareReset => exact absurd rfl hreset
  | loading n => exact absurd rfl (hload n)
  | profileLoad image => exact absurd rfl (hprofile image)
  | spulseEdge m =>
    exact ⟨_, rfl, ((settleAll_keeps s).mono (by decide)).andThen (pulseEdge_keeps m _) (by decide)⟩
  | pulseLoss => exact ⟨_, rfl, ((settleAll_keeps s).mono (by decide)).andThen (loseSync_keeps _) (by decide)⟩
  | admissionHoldEnd i => exact item _
  | silenceTimeout i => exact item _
  | dormancy i => exact item _
  | quarantineEnd g => exact item _
  | soundPendingExpiry i => exact item _
  | bandHeld b => exact item _
  | refreshClaim b => exact item _
  | settleEnd b => exact item _
  | claimTransmitLimit b => exact item _
  | lastAssertExpiry b => exact item _
  | neighbourEntryExpiry b => exact item _
  | listeningEnd => exact item _
  | resetSequenceTimeout => exact item _
  | idleRelease b => exact item _
  | placementBegin =>
    refine ran ?_
    unfold beginDue
    split
    · exact ((setPlacementsDue_keeps _ _).mono (by decide)).andThen (beginPlacement_keeps _ _) (by decide)
    · exact Keeps.refl _ _
    · exact Keeps.refl _ _
  | dataGrant =>
    refine ran ?_
    cases e : toGrant true movesBound (settle s) with
    | none => exact Keeps.refl _ _
    | some u => exact (toGrant_keeps e).mono (by decide)
  | fallbackGrant =>
    refine ran ?_
    cases e : toGrant false movesBound (settle s) with
    | none => exact Keeps.refl _ _
    | some u => exact (toGrant_keeps e).mono (by decide)
  | placementCompletion =>
    simp only [exec, execPlacementCompletion]
    split
    · exact ran ((((settleCloses_keeps _).mono (by decide)).andThen (finishPlacing_keeps _ _) (by decide)).andThen
        (completePlacement_keeps _) (by decide))
    · exact ran (Keeps.refl _ _)
  | grantListDeadline t =>
    simp only [exec, execGrantListDeadline]
    split
    · exact ran (((setDeadlinesDue_keeps _ _).mono (by decide)).andThen (deadline_keeps t _) (by decide))
    · exact ran (Keeps.refl _ _)
  | closeByTimeout t d =>
    simp only [exec, execCloseByTimeout]
    split
    · exact ran (((setClosesDue_keeps _ _).mono (by decide)).andThen (timeoutClose_keeps t d _) (by decide))
    · exact ran (Keeps.refl _ _)
  | frameReceived cells => exact ran ((receiveCells_keeps cells _).mono (by decide))
  | frameTransmitStart bus => exact ran ((beginFrame_keeps bus _).mono (by decide))
  | frameSent => exact ran ((finishFrame_keeps _).mono (by decide))
  | transmitError => exact ran ((abandonFrame_keeps _).mono (by decide))
  | attach => exact head fun _ _ => onPayload_keeps fun a => (takeAttach_keeps a _).mono (by decide)
  | detach =>
    exact head fun _ _ => onPayload_keeps fun _ => onTag_keeps (fun i => (releaseContext_keeps i _ _).mono (by decide))
      (by decide)
  | quality =>
    exact head fun _ _ => onPayload_keeps fun r => onTag_keeps (fun i => (applyQuality_keeps r i _).mono (by decide))
      (by decide)
  | range =>
    exact head fun _ _ => onPayload_keeps fun r => onTag_keeps (fun i => (applyRange_keeps r i _).mono (by decide))
      (by decide)
  | buffer =>
    exact head fun _ _ => onPayload_keeps fun r => onTag_keeps (fun i => (applyBuffer_keeps r i _).mono (by decide))
      (by decide)
  | usage => exact head fun _ _ => onPayload_keeps fun u => (takeUsage_keeps u _).mono (by decide)
  | claim =>
    refine head fun _ _ => onPayload_keeps fun r => ?_
    split
    · split
      · exact Keeps.refl _ _
      · exact (hearClaim_keeps _ _ _ _).mono (by decide)
    · exact Keeps.refl _ _
  | bandRelease =>
    refine head fun _ _ => onPayload_keeps fun r => ?_
    split
    · split
      · exact Keeps.refl _ _
      · exact (hearRelease_keeps _ _ _).mono (by decide)
    · exact Keeps.refl _ _
  | peerAdmit => exact head fun _ _ => onPayload_keeps fun a => (takeAdmit_keeps _ a _).mono (by decide)
  | queryByTag => exact head fun _ _ => onPayload_keeps fun q => answer_keeps q _
  | queryOfStation => exact head fun _ _ => onPayload_keeps fun q => answer_keeps q _
  | release =>
    refine head fun _ _ => onPayload_keeps fun g => ?_
    unfold releaseTag
    split
    · exact (releaseContext_keeps _ _ _).mono (by decide)
    · exact Keeps.refl _ _
  | retrain => exact head fun _ _ => onPayload_keeps fun g => (retrainTag_frame g _).mono (by decide)
  | clear => exact head fun _ _ => onPayload_keeps fun m => (setFlags_keeps _ _).mono (by decide)
  | reset => exact head fun _ _ => onPayload_keeps fun _ => (beginSequence_keeps _).mono (by decide)

/-- Settles O2: the frames of the commands; the three start-up rows one by one. -/
theorem everyCommandCompletes : Obligations.EveryCommandCompletes := by
  intro c s
  have settled := settle_keeps s
  have hpending := settled.pending_eq (by decide)
  by_cases hreset : c = .hardwareReset
  · subst hreset
    exact ⟨_, rfl, rfl, fun h => absurd rfl h, fun h => absurd rfl h⟩
  by_cases hload : ∃ n, c = .loading n
  · obtain ⟨n, rfl⟩ := hload
    have keeps := enterLoading_keeps n (settle s)
    exact ⟨_, rfl, (keeps.pending_eq (by decide)).trans hpending,
      fun _ _ => (keeps.profile_eq (by decide)).trans (settled.profile_eq (by decide)), fun _ h => absurd rfl (h n)⟩
  by_cases hprofile : ∃ image, c = .profileLoad image
  · obtain ⟨image, rfl⟩ := hprofile
    have keeps := loadProfile_keeps image (settle s)
    exact ⟨_, rfl, (keeps.pending_eq (by decide)).trans hpending, fun _ h => absurd rfl (h image), fun _ _ =>
      ⟨(keeps.ownStation_eq (by decide)).trans (settled.ownStation_eq (by decide)),
        (keeps.resetN_eq (by decide)).trans (settled.resetN_eq (by decide))⟩⟩
  · obtain ⟨t, ht, keeps⟩ := exec_keeps hreset (fun n h => hload ⟨n, h⟩) (fun im h => hprofile ⟨im, h⟩) s
    exact ⟨t, ht, keeps.pending_eq (by decide), fun _ _ => keeps.profile_eq (by decide),
      fun _ _ => ⟨keeps.ownStation_eq (by decide), keeps.resetN_eq (by decide)⟩⟩

/-! ### What the latest event has left to do -/

theorem settle_settle (s : State) : settle (settle s) = settle s := settle_of_empty (settle_agenda s)

theorem settleAll_settle (s : State) : settleAll (settle s) = settleAll s := by rw [settleAll, settle_settle, settleAll]

theorem hardwareReset_settle (s : State) : hardwareReset (settle s) = hardwareReset s := by
  have keeps := settle_keeps s
  rw [hardwareReset, hardwareReset, keeps.freeCount_eq (by decide), keeps.pending_eq (by decide)]

/-- A threshold whose item is not on the agenda has no effect (log entry 2). -/
theorem threshold_of_absent {d : Due} {s : State} (h : d ∉ s.agenda) : threshold d s = s := by
  rw [threshold, if_neg (by simpa using h)]

/-- A command that is no threshold row finds the agenda done. -/
theorem exec_settle {c : Instr} (h : itemOf c = none) (s : State) : exec c s = exec c (settle s) := by
  cases c with
  | hardwareReset => exact congrArg Host.Outcome.next (hardwareReset_settle s).symm
  | spulseEdge m => simp only [exec, execSpulseEdge, settleAll_settle]
  | pulseLoss => simp only [exec, execPulseLoss, settleAll_settle]
  | loading n => simp only [exec, execLoading, settle_settle]
  | profileLoad image => simp only [exec, execProfileLoad, settle_settle]
  | placementBegin => simp only [exec, execPlacementBegin, settle_settle]
  | dataGrant => simp only [exec, execDataGrant, settle_settle]
  | fallbackGrant => simp only [exec, execFallbackGrant, settle_settle]
  | placementCompletion => simp only [exec, execPlacementCompletion, settle_settle]
  | grantListDeadline t => simp only [exec, execGrantListDeadline, settle_settle]
  | closeByTimeout t d => simp only [exec, execCloseByTimeout, settle_settle]
  | frameReceived cells => simp only [exec, execFrameReceived, settle_settle]
  | frameTransmitStart bus => simp only [exec, execFrameTransmitStart, settle_settle]
  | frameSent => simp only [exec, execFrameSent, settle_settle]
  | transmitError => simp only [exec, execTransmitError, settle_settle]
  | attach => simp only [exec, execAttach, settle_settle]
  | detach => simp only [exec, execDetach, settle_settle]
  | quality => simp only [exec, execQuality, settle_settle]
  | range => simp only [exec, execRange, settle_settle]
  | buffer => simp only [exec, execBuffer, settle_settle]
  | usage => simp only [exec, execUsage, settle_settle]
  | claim => simp only [exec, execClaim, settle_settle]
  | bandRelease => simp only [exec, execBandRelease, settle_settle]
  | peerAdmit => simp only [exec, execAdmit, settle_settle]
  | queryByTag => simp only [exec, execQueryByTag, settle_settle]
  | queryOfStation => simp only [exec, execQueryOfStation, settle_settle]
  | release => simp only [exec, execRelease, settle_settle]
  | retrain => simp only [exec, execRetrain, settle_settle]
  | clear => simp only [exec, execClear, settle_settle]
  | reset => simp only [exec, execReset, settle_settle]
  | _ => cases h

/-- The threshold rows do their items. -/
theorem exec_threshold {c : Instr} {d : Due} (h : itemOf c = some d) (s : State) : exec c s = .next (threshold d s) := by
  cases c <;> cases h <;> rfl

theorem awaited_of_keeps {l : List Field} {s t : State} (hk : Keeps l s t) (hp : .placementsDue ∉ l) (hf : .flight ∉ l) :
    t.awaited = s.awaited := by
  funext i
  rw [State.awaited, State.awaited, hk.placementsDue_eq hp, hk.flight_eq hf]

/-- Of the deadlines, those that wait for their placement are left. -/
theorem settleDeadlines_deadlinesDue (s : State) : (settleDeadlines s).deadlinesDue = s.deadlinesDue.filter s.awaited :=
  (Keeps.foldl (fun s t => deadline_keeps t s) _ _).deadlinesDue_eq (by decide)

theorem settleAll_rested (s : State) : (settleAll s).rested := by
  have keeps := (settleDeadlines_keeps (settleCloses (settle s)))
  refine ⟨?_, settleAll_closesDue s, fun t ht => ?_⟩
  · rw [settleAll, keeps.agenda_eq (by decide), (settleCloses_keeps _).agenda_eq (by decide), settle_agenda]
  · rw [settleAll, settleDeadlines_deadlinesDue, List.mem_filter] at ht
    rw [settleAll, awaited_of_keeps keeps (by decide) (by decide)]
    exact ht.2

theorem settleAll_of_rested {s : State} (h : s.rested) : settleAll s = s := by
  obtain ⟨hagenda, hcloses, hawait⟩ := h
  have closes : settleCloses s = s := by
    have : s.setClosesDue [] = s := by rw [← hcloses]; rfl
    rw [settleCloses, hcloses, this, List.foldl_nil]
  have hleft : s.deadlinesDue.filter s.awaited = s.deadlinesDue := List.filter_eq_self.mpr hawait
  have hdone : (s.deadlinesDue.filter fun t => !s.awaited t) = [] :=
    List.filter_eq_nil_iff.mpr fun t ht => by rw [hawait t ht]; decide
  rw [settleAll, settle_of_empty hagenda, closes, settleDeadlines, hleft, hdone, List.foldl_nil]
  rfl

/-- Settles O3: what is left is done before the command, and doing it again does nothing. -/
theorem agendaBeforeOtherCommands : Obligations.AgendaBeforeOtherCommands := by
  refine ⟨fun c s h => exec_settle h s, fun c d s hc hd => ?_, fun m s => ?_, fun s => ?_, fun s =>
    ⟨settleAll_rested s, settleAll_of_rested⟩⟩
  · rw [exec_threshold hc, threshold_of_absent hd]
  · exact congrArg (fun u => Host.Outcome.next (pulseEdge m u)) (settleAll_of_rested (settleAll_rested s)).symm
  · exact congrArg (fun u => Host.Outcome.next (loseSync u)) (settleAll_of_rested (settleAll_rested s)).symm

/-- Settles O4: in LOADING and HALTED there is nothing to act on. -/
theorem loadingAndHaltedIgnoreEvents : Obligations.LoadingAndHaltedIgnoreEvents := by
  intro c s ⟨_, _, _, hquiet⟩ hstation
  have hacting : s.acting = false := by
    rcases hstation with h | h <;> rw [State.acting, h]
  exact exec_quiet (hquiet hacting) hacting c

end Sys2Proof.Machine
end

section
/-! Start-up and resets (R172 to R178), thresholds as items of the agenda (log entry 1), and the laws right after reset. -/
namespace Sys2Proof.Machine

/-! ### Resets -/

theorem stationReset_spec (s : State) : StationReset s (stationReset s) := by
  refine ⟨⟨rfl, rfl, rfl, rfl, rfl, fun i => ?_, fun g => ?_, rfl, rfl, fun b => ?_, rfl, rfl, fun b => ?_, rfl, rfl, rfl, rfl,
    rfl, rfl, rfl, rfl, rfl, rfl, rfl, rfl, rfl, rfl⟩, rfl, rfl, rfl, rfl, rfl⟩
  · simp [stationReset, State.reset, State.ctx]
  · simp [stationReset, State.reset, State.tagEntry]
  · simp [stationReset, State.reset, State.own]
  · simp [stationReset, State.reset, State.neighbour]

theorem hardwareReset_blocksReset (s : State) : (hardwareReset s).blocksReset := (stationReset_spec s).1

/-- Settles O5: the state written is the reset state but for the model's own fields. -/
theorem hardwareResetTaken : Obligations.HardwareResetTaken := fun s =>
  ⟨_, rfl, hardwareReset_blocksReset s, rfl, rfl, rfl, by simp [State.alertLow, hardwareReset, State.reset]⟩

theorem alertLow_of_halted {s : State} (h : s.station = .halted) : s.alertLow = true := by simp [State.alertLow, h]

theorem enterLoading_of_low {s : State} (n : Station) (h : s.resetN = false) : enterLoading n s =
    ((s.setResetN true).setOwnStation n).setStation (if n = 15 then .halted else .loading) := by
  rw [enterLoading, h]
  dsimp only
  rw [if_neg Bool.false_ne_true]
  split <;> rfl

theorem enterLoading_of_high {s : State} (n : Station) (h : s.resetN = true) : enterLoading n s = s := by
  rw [enterLoading, if_pos h]

theorem loadProfile_of_loading {s : State} (im : List Byte) (hr : s.resetN = true) (hl : s.station = .loading) :
    loadProfile im s = if imageByte im 0 = 0x6C then (s.setProfile (profileOf im)).setStation .syncing
      else s.setStation .halted := by
  rw [loadProfile, if_pos ⟨hr, hl⟩]

theorem loadProfile_of_other {s : State} (im : List Byte) (h : s.resetN = false ∨ s.station ≠ .loading) :
    loadProfile im s = s := by
  rw [loadProfile, if_neg]
  rintro ⟨hr, hl⟩
  rcases h with h | h
  · rw [hr] at h; cases h
  · exact h hl

/-- Settles O6: the cases of LOADING and PROFILE_LOAD on a settled state. -/
theorem startUp : Obligations.StartUp := by
  intro s hagenda
  have settled := settle_of_empty hagenda
  have loading : ∀ n, exec (.loading n) s = .next (enterLoading n s) := fun n => by
    rw [exec, execLoading, settled]
  have profile : ∀ im, exec (.profileLoad im) s = .next (loadProfile im s) := fun im => by
    rw [exec, execProfileLoad, settled]
  refine ⟨fun n h => ?_, fun n h => ?_, fun im hr hl hm => ?_, fun im hr hl hm => ?_, fun im h => ?_,
    alertLow_of_halted rfl, alertLow_of_halted rfl⟩
  · rw [loading, enterLoading_of_low n h]
  · rw [loading, enterLoading_of_high n h]
  · rw [profile, loadProfile_of_loading im hr hl, if_neg hm]
  · rw [profile, loadProfile_of_loading im hr hl, if_pos hm]
  · rw [profile, loadProfile_of_other im h]

/-! ### The profile image -/

theorem roundingOfCode_eq (n : Nat) : Rounding.ofCode n = [Rounding.nearest, .towardZero, .up, .down].getD n .down := by
  match n with
  | 0 | 1 | 2 | 3 => rfl
  | _ + 4 => rfl

theorem silenceOfCode_eq (n : Nat) : SilenceCode.ofCode n = [SilenceCode.a, .b, .c, .d].getD n .d := by
  match n with
  | 0 | 1 | 2 | 3 => rfl
  | _ + 4 => rfl

theorem fin16_clamp {v : Nat} : (Fin.ofNat 16 (clampTo 0 14 v)).val = min 14 v := by
  simp only [Fin.ofNat, clampTo]
  omega

theorem orderOfBit_eq {v : Nat} {p : Prop} [Decidable p] (h : v = 0 ↔ ¬p) :
    VisitOrder.ofBit v = if p then .interleaved else .sequential := by
  simp only [VisitOrder.ofBit, h, ite_not]

/-- Settles O7: the fields of `profileOf`, each cut out of its bytes and clamped. -/
theorem profileFieldsClamped : Obligations.ProfileFieldsClamped := by
  intro image at1 at2 p
  have hbyte : ∀ n, at1 n < 256 := imageByte_lt image
  have hword : ∀ n, at2 n < 65536 := fun n => by
    have h0 := hbyte n
    have h1 := hbyte (n + 1)
    show at1 n * 256 + at1 (n + 1) < 65536
    omega
  have nibble : ∀ n, bits (at1 n) 7 4 = at1 n / 16 := fun n => by
    have := hbyte n
    simp only [bits_eq, Nat.reducePow, Nat.reduceAdd, Nat.reduceSub]
    omega
  refine ⟨fin16_clamp.trans (by rw [← nibble]), fin16_clamp.trans (by simp [bits_eq, at1]), ?_, ?_, ?_, ?_, ?_, ?_, ?_, ?_,
    ?_, ?_, ?_, ?_, nibble 11, ?_, ?_, ?_, rfl, ?_⟩
  · exact (BitVec.toNat_ofNat _ _).trans (Nat.mod_eq_of_lt (hword 2))
  · have := hbyte 4
    show clampTo 0 6 (bits (at1 4) 7 5) = _
    simp only [clampTo, bits_eq, Nat.reducePow, Nat.reduceAdd, Nat.reduceSub]
    omega
  · show clampTo 0 4 (bits (at1 4) 4 2) = _
    simp only [clampTo, bits_eq, Nat.reducePow, Nat.reduceAdd, Nat.reduceSub]
    omega
  · show Rounding.ofCode (bits (at1 4) 1 0) = _
    rw [roundingOfCode_eq, bits_eq, pow_zero, Nat.div_one]
    rfl
  · show clampTo 3 10 (bits (at1 5) 7 4) = _
    rw [nibble]
    rfl
  · show bits (at1 5) 3 1 = _
    rw [bits_eq]
    rfl
  · have := hbyte 6
    refine orderOfBit_eq (v := bits (at1 6) 7 7) ?_
    simp only [bits_eq, Nat.reducePow, Nat.reduceAdd, Nat.reduceSub]
    omega
  · refine orderOfBit_eq (v := bits (at1 6) 6 6) ?_
    simp only [bits_eq, Nat.reducePow, Nat.reduceAdd, Nat.reduceSub]
    omega
  · show SilenceCode.ofCode (bits (at1 6) 5 4) = _
    rw [silenceOfCode_eq, bits_eq]
    rfl
  · show SilenceCode.ofCode (bits (at1 6) 3 2) = _
    rw [silenceOfCode_eq, bits_eq]
    rfl
  · show clampTo 50 1000 (bits (at2 7) 9 0) = _
    rw [bits_eq, pow_zero, Nat.div_one]
    rfl
  · show bits (at2 9) 9 0 = _
    rw [bits_eq, pow_zero, Nat.div_one]
    rfl
  · show bits (at2 12) 9 0 = _
    rw [bits_eq, pow_zero, Nat.div_one]
    rfl
  · show clampTo 1 63 (bits (at1 14) 5 0) = _
    simp only [clampTo, bits_eq, Nat.reducePow, Nat.reduceAdd, Nat.reduceSub]
    omega
  · show clampTo 100 4000 (bits (at2 15) 11 0) = _
    rw [bits_eq, pow_zero, Nat.div_one]
    rfl
  · exact (BitVec.toNat_ofNat _ _).trans (Nat.mod_eq_of_lt (hword 20))

/-! ### Items of the agenda -/

/-- An item leaves the agenda alone, or resets the station. -/
theorem perform_agenda_cases (d : Due) (s : State) : (perform d s).agenda = s.agenda ∨ (perform d s).agenda = [] := by
  have kept : ∀ {l t}, Keeps l s t → .agenda ∉ l → t.agenda = s.agenda ∨ t.agenda = [] :=
    fun hk hl => .inl (hk.agenda_eq hl)
  cases d with
  | admissionHoldEnd i => exact kept (pulseSlot_keeps i s) (by decide)
  | silenceTimeout i => exact kept (pulseSlot_keeps i s) (by decide)
  | dormancy i => exact kept (pulseSlot_keeps i s) (by decide)
  | quarantineEnd g => exact .inl rfl
  | soundPendingExpiry i => exact .inl rfl
  | bandHeld b => exact kept (holdBand_keeps b s) (by decide)
  | refreshClaim b => exact kept (refreshBand_keeps b s) (by decide)
  | settleEnd b => exact kept (settleBand_keeps b s) (by decide)
  | claimTransmitLimit b => exact kept (limitClaim_keeps b s) (by decide)
  | lastAssertExpiry b => exact .inl rfl
  | neighbourEntryExpiry b => exact .inl rfl
  | listeningEnd =>
    change (endListening s).agenda = _ ∨ _
    unfold endListening
    split <;> exact .inl rfl
  | resetSequenceTimeout => exact .inr rfl
  | idleRelease b => exact kept (releaseIdle_keeps b s) (by decide)
  | newClaim => exact kept (decideClaim_keeps s) (by decide)

/-- A threshold whose item is due does it, unless a claim decision waited for it alone. -/
theorem threshold_of_due {d : Due} {s : State} (h : d ∈ s.agenda) (hleft : (perform d (s.taking d)).agenda ≠ [.newClaim]) :
    threshold d s = perform d (s.taking d) := by
  rw [threshold, if_pos (by simpa using h)]
  exact if_neg hleft

theorem threshold_of_dueNow {d : Due} {s : State} (h : s.dueNow d) : threshold d s = perform d (s.taking d) := by
  refine threshold_of_due h.1 fun hleft => ?_
  rcases perform_agenda_cases d (s.taking d) with hsame | hnone
  · rw [hsame, State.taking, setAgenda_agenda] at hleft
    exact h.2 (List.mem_of_mem_erase (hleft ▸ List.mem_cons_self))
  · rw [hnone] at hleft; cases hleft

/-- Settles O8: the two items of station control. -/
theorem stationCountsEnd : Obligations.StationCountsEnd := by
  refine ⟨fun s hdue hlist => ?_, fun s hdue => ?_⟩
  · rw [exec_threshold rfl, threshold_of_dueNow hdue]
    exact congrArg Host.Outcome.next (if_pos hlist)
  · rw [exec_threshold rfl, threshold_of_due hdue (List.cons_ne_nil _ _).symm]
    exact ⟨_, rfl, stationReset_spec s⟩

/-! ### The laws right after reset -/

/-- Settles O54: each law after a hardware reset of the reset state. -/
theorem lawsAtReset : Obligations.LawsAtReset :=
  ⟨stationLaw_timerLaw.hardwareReset State.reset, sizeLaw_storeLaw.hardwareReset State.reset,
    mapLaw_bandLaw.hardwareReset State.reset, quotaLaw_bandLaw.hardwareReset State.reset,
    tableLaw_storeLaw.hardwareReset State.reset, (pendingLaw_storeLaw.hardwareReset State.reset).2,
    (rangeLaw_iff _).mpr ⟨storeRanges_storeLaw.hardwareReset State.reset, bandRanges_bandLaw.hardwareReset State.reset,
      countRanges_timerLaw.hardwareReset State.reset⟩,
    openLaw_timerLaw.hardwareReset State.reset, fun _ hf => by cases hf⟩

end Sys2Proof.Machine
end

section
/-! Conditions (R167, R168), the close by timeout (R144) and the grant list deadline (R141). -/
namespace Sys2Proof.Machine

/-! ### Raising a condition -/

/-- An ALERT carries all flags, the high byte first, and the cause (R162). -/
theorem alertPayload_eq (flags : BitVec 16) (cause : BitVec 4) :
    alertPayload flags cause = [(flags >>> 8).setWidth 8, flags.setWidth 8, cause.setWidth 8] := by
  have hf := flags.isLt
  have hc := cause.isLt
  have hword : field flags.toNat 16 8 + field cause.toNat 4 0 = flags.toNat * 256 + cause.toNat := by
    rw [field_eq, field_eq]
    omega
  have hhigh : BitVec.ofNat 8 ((flags.toNat * 256 + cause.toNat) >>> (8 * 2)) = (flags >>> 8).setWidth 8 := by
    apply BitVec.eq_of_toNat_eq
    simp only [BitVec.toNat_ofNat, BitVec.toNat_setWidth, BitVec.toNat_ushiftRight, Nat.shiftRight_eq_div_pow]
    omega
  have hmid : BitVec.ofNat 8 ((flags.toNat * 256 + cause.toNat) >>> (8 * 1)) = flags.setWidth 8 := by
    apply BitVec.eq_of_toNat_eq
    simp only [BitVec.toNat_ofNat, BitVec.toNat_setWidth, Nat.shiftRight_eq_div_pow]
    omega
  have hlow : BitVec.ofNat 8 ((flags.toNat * 256 + cause.toNat) >>> (8 * 0)) = cause.setWidth 8 := by
    apply BitVec.eq_of_toNat_eq
    simp only [BitVec.toNat_ofNat, BitVec.toNat_setWidth, Nat.shiftRight_eq_div_pow]
    omega
  rw [alertPayload, hword, bytesOf, bytesOf, bytesOf, bytesOf, hhigh, hmid, hlow]

theorem priority_le_six (k : Kind) : k.priority ≤ 6 := by cases k <;> decide

/-- An ALERT evicts nothing (R158). -/
theorem queueAlert_of_full {s : State} (h : 24 ≤ s.txQueue.length) : s.queueAlert = none := by
  have refused : admitToQueue s.txQueue s.alertTelegram = .refused :=
    admitToQueue_of_no_victim h fun y _ => .inr (priority_le_six y.kind)
  rw [State.queueAlert, refused]

theorem or_bit_of_raised {c : Condition} {s : State} (h : s.raised c = true) : s.flags ||| c.bit = s.flags := by
  apply BitVec.eq_of_getLsbD_eq
  intro i hi
  by_cases hic : i = c.num
  · rw [hic, BitVec.getLsbD_or, show s.flags.getLsbD c.num = true from h, Bool.true_or]
  · have hclear : c.bit.getLsbD i = false := by
      rw [Condition.bit, BitVec.getLsbD_shiftLeft]
      by_cases hlt : i < c.num
      · simp [hlt]
      · simp [BitVec.getLsbD_one, show ¬(i - c.num = 0) by omega]
    rw [BitVec.getLsbD_or, hclear, Bool.or_false]

theorem queueAlert_eq (s : State) : s.queueAlert =
    if s.txQueue.length < 24 then some (s.setTxQueue (s.txQueue ++ [s.alertTelegram])) else none := by
  split
  · next h => rw [State.queueAlert, admitToQueue, if_pos h]
  · next h => exact queueAlert_of_full (Nat.le_of_not_lt h)

/-- The queue with nothing but ALERTs put behind it. -/
def AlertsAdded (q q' : List TxTelegram) : Prop := ∃ more, (∀ x ∈ more, x.owner = .unreported) ∧ q' = q ++ more

theorem AlertsAdded.refl (q : List TxTelegram) : AlertsAdded q q := ⟨[], by simp, (List.append_nil q).symm⟩

theorem queueAlert_txQueue {s t : State} (h : s.queueAlert = some t) : AlertsAdded s.txQueue t.txQueue := by
  rw [queueAlert_eq] at h
  split at h
  · rw [← Option.some.inj h]; exact ⟨[s.alertTelegram], by simp [State.alertTelegram, telegram], rfl⟩
  · cases h

/-- An ALERT is queued behind what is there. -/
theorem offerAlert_txQueue (s : State) : AlertsAdded s.txQueue (offerAlert s).txQueue := by
  have same := AlertsAdded.refl s.txQueue
  unfold offerAlert
  split
  · split
    · next h => exact queueAlert_txQueue h
    · split
      · exact same
      · dsimp only
        split
        · cases h : (s.setFlag .txFail).queueAlert with
          | none => exact same
          | some t => exact queueAlert_txQueue (s := s.setFlag .txFail) h
        · exact same
  · exact same

/-- A raise takes nothing from the queue. -/
theorem raise_txQueue (c : Condition) (s : State) : AlertsAdded s.txQueue (raise c s).txQueue := by
  have same := AlertsAdded.refl s.txQueue
  unfold raise
  split
  · exact same
  · dsimp only
    split
    · exact offerAlert_txQueue (s.setFlag c)
    · exact same

/-- A refused ALERT leaves TX_FAIL set (R158). -/
theorem offerAlert_of_full {s : State} (ha : s.acting = true) (h : 24 ≤ s.txQueue.length) :
    offerAlert s = s.setFlags (s.flags ||| (1#16 <<< 12)) := by
  have refused : (s.setFlag .txFail).queueAlert = none := queueAlert_of_full (s := s.setFlag .txFail) h
  rw [offerAlert, if_pos ha, queueAlert_of_full h]
  dsimp only
  split
  · next hset =>
    have hbit : s.flags ||| (1#16 <<< 12) = s.flags := or_bit_of_raised hset
    rw [hbit]; rfl
  · split
    · rw [refused]; rfl
    · rfl

/-- Settles O34: the four cases of a raise. -/
theorem raiseSetsFlagAndAlerts : Obligations.RaiseSetsFlagAndAlerts := by
  intro c s ha flags
  refine ⟨raise_of_raised, fun hclear hoff => raise_of_disabled hoff hclear, fun hclear hon hroom => ?_,
    fun hclear hon hfull => ?_⟩
  · rw [raise_of_enabled hon hclear ha hroom, State.alertTelegram, alertPayload_eq]
    rfl
  · have enabled : (s.setFlag c).enabled c = true := hon
    rw [raise, if_neg (by rw [State.raised, hclear]; decide)]
    dsimp only
    rw [if_pos enabled, offerAlert_of_full (s := s.setFlag c) ha hfull]
    rfl

/-! ### The close by timeout -/

theorem timeoutClose_of_closed {n : Interval} {d : Direction} {s : State} (h : s.isOpen n d = false) :
    timeoutClose n d s = s := by
  rw [timeoutClose, h]; rfl

/-- Some record of the close has no delivered value. -/
def State.unreported (s : State) (n : Interval) (d : Direction) : Bool :=
  s.records.any fun r => r.inClose n d && !r.orphan && r.delivered.isNone

theorem unreported_iff (s : State) (n : Interval) (d : Direction) : s.unreported n d = true ↔
    ∃ r ∈ s.records, r.interval = n ∧ r.dir = d ∧ r.orphan = false ∧ r.delivered = none := by
  simp [State.unreported, Record.inClose, and_assoc]

theorem timeoutClose_of_open {n : Interval} {d : Direction} {s : State} (h : s.isOpen n d = true) :
    timeoutClose n d s = if s.unreported n d then raise .usageTimeout (closeInterval n d .timeout s)
      else closeInterval n d .timeout s := by
  rw [timeoutClose, h]; rfl

/-- Settles O45: whether the timeout is due, the interval open, a record unreported. -/
theorem closeByTimeoutTaken : Obligations.CloseByTimeoutTaken := by
  intro s n d hagenda u
  have hopen : u.isOpen n d = s.isOpen n d := rfl
  have hun : u.unreported n d = s.unreported n d := rfl
  have due : (n, d) ∈ s.closesDue → exec (.closeByTimeout n d) s = .next (timeoutClose n d u) := fun h => by
    rw [exec, execCloseByTimeout, settle_of_empty hagenda]
    exact if_pos (List.contains_iff_mem.mpr h)
  refine ⟨fun h => ?_, fun h hc => ?_, fun h ho hall => ?_, fun h ho hsome => ?_⟩
  · rw [exec, execCloseByTimeout, settle_of_empty hagenda]
    exact if_neg fun hm => h (List.contains_iff_mem.mp hm)
  · rw [due h, timeoutClose_of_closed (hopen.trans hc)]
  · rw [due h, timeoutClose_of_open (hopen.trans ho), hun, if_neg]
    intro hs
    obtain ⟨r, hr, hi, hd, hor, hnone⟩ := (unreported_iff s n d).mp hs
    exact hall r hr hi hd hor hnone
  · rw [due h, timeoutClose_of_open (hopen.trans ho), hun, if_pos ((unreported_iff s n d).mpr hsome)]

/-! ### The grant list deadline -/

theorem listSeq_eq_some {o : Owner} {n : Interval} {k : Nat} : o.listSeq n = some k ↔ o = .grantList n k := by
  cases o with
  | grantList m j =>
    by_cases h : m = n
    · simp [Owner.listSeq, h]
    · simp [Owner.listSeq, h]
  | claim _ => simp [Owner.listSeq]
  | bandRelease _ _ => simp [Owner.listSeq]
  | unreported => simp [Owner.listSeq]
  | disowned => simp [Owner.listSeq]

/-- The telegrams a deadline withdraws at once (R141). -/
theorem mem_lateLists (s : State) (n : Interval) (k : Nat) : k ∈ s.lateLists n ↔
    s.listState n k = some .queued ∧ ∃ x ∈ s.txQueue, x.owner = .grantList n k ∧ x.onWire = false := by
  rw [State.lateLists, List.mem_filterMap]
  constructor
  · rintro ⟨x, hx, hk⟩
    split at hk
    · next m hm =>
      split at hk
      · next hq =>
        obtain rfl := Option.some.inj hk
        exact ⟨hq.1, x, hx, listSeq_eq_some.mp hm, hq.2⟩
      · cases hk
    · cases hk
  · rintro ⟨hq, x, hx, hown, hwire⟩
    refine ⟨x, hx, ?_⟩
    rw [listSeq_eq_some.mpr hown]
    exact if_pos ⟨hq, hwire⟩

/-- Marking telegrams as withdrawn one after the other. -/
theorem foldl_mark_telegrams (ks : List Nat) (e : RegisterEntry) (k : Nat) :
    ((ks.foldl (fun e n => e.mark n .withdrawn) e).telegrams)[k]? =
      if k ∈ ks then e.telegrams[k]?.map (fun _ => .withdrawn) else e.telegrams[k]? := by
  induction ks generalizing e with
  | nil => simp
  | cons j ks ih =>
    rw [List.foldl_cons, ih, RegisterEntry.mark, List.getElem?_set]
    by_cases hjk : j = k
    · subst hjk
      by_cases hlt : j < e.telegrams.length
      · simp [hlt]
      · simp [hlt]
    · simp [hjk, Ne.symm hjk]

theorem foldl_mark_interval (ks : List Nat) (e : RegisterEntry) :
    (ks.foldl (fun e n => e.mark n .withdrawn) e).interval = e.interval := by
  induction ks generalizing e with
  | nil => rfl
  | cons j ks ih => exact ih (e.mark j .withdrawn)

/-- A register entry whose telegrams `ks` a deadline withdraws, LATE_LIST having been raised (R141). -/
def RegisterEntry.withdrawn (ks : List Nat) (e : RegisterEntry) : RegisterEntry :=
  { ks.foldl (fun e n => e.mark n .withdrawn) e with late := true }

/-- The entry of an interval after a rewriting that keeps intervals. -/
theorem registerOf_updateRegister {s : State} {n : Interval} {f : RegisterEntry → RegisterEntry}
    (hf : ∀ e, (f e).interval = e.interval) (m : Interval) :
    (s.updateRegister n f).registerOf m = if m = n then (s.registerOf m).map f else s.registerOf m := by
  rw [State.registerOf, State.updateRegister, setRegister_register, State.registerOf]
  induction s.register with
  | nil => simp
  | cons e es ih =>
    have hkeep : (if e.interval = n then f e else e).interval = e.interval := by
      split
      · exact hf e
      · rfl
    rw [List.map_cons, List.find?_cons, List.find?_cons, hkeep, ih]
    by_cases hm : e.interval = m
    · simp only [hm, decide_true]
      split <;> rfl
    · simp [hm]

/-- The states of an interval's telegrams once some of them are withdrawn. -/
theorem listState_withdrawn (s : State) (n : Interval) (ks : List Nat) (m : Interval) (k : Nat) :
    (s.updateRegister n (RegisterEntry.withdrawn ks)).listState m k =
      if m = n ∧ k ∈ ks then (s.listState m k).map (fun _ => .withdrawn) else s.listState m k := by
  rw [State.listState, registerOf_updateRegister (f := RegisterEntry.withdrawn ks) (foldl_mark_interval ks), State.listState]
  by_cases hm : m = n
  · rw [if_pos hm]
    cases s.registerOf m with
    | none => simp
    | some e =>
      simp only [Option.map_some, Option.bind_some, RegisterEntry.withdrawn, foldl_mark_telegrams]
      by_cases hk : k ∈ ks
      · rw [if_pos hk, if_pos ⟨hm, hk⟩]
      · rw [if_neg hk, if_neg fun h => hk h.2]
  · rw [if_neg hm, if_neg fun h => hm h.1]

theorem restoreBits_setRegister (s : State) (g : List RegisterEntry) (r : Record) :
    restoreBits (s.setRegister g) r = (restoreBits s r).setRegister g := by
  unfold restoreBits
  split <;> rfl

/-- A rollback reads nothing of the register. -/
theorem rollbackWhere_setRegister (p : Record → Bool) (s : State) (g : List RegisterEntry) :
    rollbackWhere p (s.setRegister g) = (rollbackWhere p s).setRegister g := by
  have fold : ∀ (rs : List Record) (s : State),
      rs.foldl restoreBits (s.setRegister g) = (rs.foldl restoreBits s).setRegister g := by
    intro rs
    induction rs with
    | nil => exact fun _ => rfl
    | cons r rs ih => exact fun s => by rw [List.foldl_cons, restoreBits_setRegister, ih, List.foldl_cons]
  rw [rollbackWhere, setRegister_records, fold]
  rfl

theorem carried_any_eq (n : Interval) (late : List Nat) (r : Record) :
    (late.any fun k => r.carriedBy n k) = (decide (r.interval = n) && r.carrier.any fun k => late.contains k) := by
  rw [Bool.eq_iff_iff]
  simp only [List.any_eq_true, Record.carriedBy, Bool.and_eq_true, decide_eq_true_eq, Option.any_eq_true,
    List.contains_iff_mem]
  constructor
  · rintro ⟨k, hk, hi, hc⟩
    exact ⟨hi, k, hc, hk⟩
  · rintro ⟨hi, k, hc, hk⟩
    exact ⟨k, hk, hi, hc⟩

/-- The state a deadline leaves before LATE_LIST is raised. -/
def State.withdrawn (s : State) (n : Interval) : State :=
  rollbackWhere (fun r => (s.lateLists n).any fun k => r.carriedBy n k)
    ((s.setTxQueue (removeTelegrams (s.queuedList n) TxTelegram.marked s.txQueue)).updateRegister n
      (RegisterEntry.withdrawn (s.lateLists n)))

theorem deadline_of_none {s : State} {n : Interval} (h : s.lateLists n = []) :
    deadline n s = s.setTxQueue (removeTelegrams (s.queuedList n) TxTelegram.marked s.txQueue) := by
  rw [deadline]
  exact if_pos h

theorem deadline_of_late {s : State} {n : Interval} (h : s.lateLists n ≠ []) :
    deadline n s = raise .lateList (s.withdrawn n) := by
  rw [deadline]
  exact if_neg h

theorem listState_of_keeps {l : List Field} {s t : State} (hk : Keeps l s t) (hl : .register ∉ l) :
    t.listState = s.listState := by
  funext m k
  rw [State.listState, State.registerOf, hk.register_eq hl]
  rfl

/-- Settles O44: not due, nothing late, or the rollback with LATE_LIST. -/
theorem grantListDeadlineTaken : Obligations.GrantListDeadlineTaken := by
  intro s n hagenda
  refine ⟨fun h => ?_, fun hdue hfree => ?_⟩
  · rw [exec, execGrantListDeadline, settle_of_empty hagenda]
    refine if_neg fun hm => ?_
    rcases h with h | h
    · exact h (List.contains_iff_mem.mp hm.1)
    · rw [h] at hm; cases hm.2
  intro late queue u
  generalize hw : s.setDeadlinesDue (s.deadlinesDue.erase n) = w
  have hlate : w.lateLists n = late := by rw [← hw]; rfl
  have hqueue : removeTelegrams (w.queuedList n) TxTelegram.marked w.txQueue = queue := by rw [← hw]; rfl
  have hstate : w.listState = s.listState := by rw [← hw]; rfl
  have hu : u = w.setTxQueue queue := by rw [← hw]
  have run : exec (.grantListDeadline n) s = .next (deadline n w) := by
    rw [exec, execGrantListDeadline, settle_of_empty hagenda, ← hw]
    exact if_pos ⟨List.contains_iff_mem.mpr hdue, hfree⟩
  refine ⟨mem_lateLists s n, fun hnone => ?_, fun hsome => ?_⟩
  · rw [run, deadline_of_none (hlate.trans hnone), hqueue, hu]
  have hraise := raise_keeps .lateList (w.withdrawn n)
  have hwithdrawn : w.withdrawn n = rollbackWhere (fun r => decide (r.interval = n) && r.carrier.any fun k => late.contains k)
      (u.updateRegister n (RegisterEntry.withdrawn late)) := by
    simp only [State.withdrawn, hlate, hqueue, ← hu, carried_any_eq]
  have hlist : ∀ m k, (raise .lateList (w.withdrawn n)).listState m k =
      if m = n ∧ k ∈ late then (s.listState m k).map (fun _ => .withdrawn) else s.listState m k := fun m k => by
    rw [listState_of_keeps hraise (by decide), hwithdrawn, listState_of_keeps (rollbackWhere_keeps _ _) (by decide),
      listState_withdrawn, ← hstate, hu]
    rfl
  refine ⟨_, _, run.trans (by rw [deadline_of_late (fun h => hsome (hlate.symm.trans h))]), rfl, ?_, ?_,
    raise_raised _ _ _ (.inl rfl), fun k hk => ?_, fun k hk => ?_, fun m k hm => ?_, ?_, ?_⟩
  · rw [hraise.records_eq (by decide), hwithdrawn, State.updateRegister, rollbackWhere_setRegister]
    rfl
  · rw [hraise.contexts_eq (by decide), hwithdrawn, State.updateRegister, rollbackWhere_setRegister]
    rfl
  · rw [hlist, if_pos ⟨rfl, hk⟩, ((mem_lateLists s n k).mp hk).1]
    rfl
  · rw [hlist, if_neg fun h => hk h.2]
  · rw [hlist, if_neg fun h => hm h.1]
  · obtain ⟨more, -, hmore⟩ := raise_txQueue .lateList (w.withdrawn n)
    rw [hmore, hwithdrawn, (rollbackWhere_keeps _ _).txQueue_eq (by decide)]
    exact ⟨more, by rw [hu]; rfl⟩
  · rw [← deadline_of_late (fun h => hsome (hlate.symm.trans h)), ← hw]
    exact ((setDeadlinesDue_keeps s _).mono (by decide)).andThen (deadline_keeps n _) (by decide)

end Sys2Proof.Machine
end

section
/-! The interval timer's events (R4 to R8, R175, R176): pulses, marks and pulse loss at a state where nothing is left to do. -/
namespace Sys2Proof.Machine

/-! ### The unsynchronised pulse -/

theorem exec_spulseEdge_of_rested {s : State} (m : Bool) (h : s.rested) :
    exec (.spulseEdge m) s = .next (pulseEdge m s) := by
  rw [exec, execSpulseEdge, settleAll_of_rested h]

theorem markEvent_of_syncing {s : State} (h : s.station = .syncing) (hr : s.resume = none) :
    markEvent s = ((s.setStation .listening).setListening 128).setResume none := by
  rw [markEvent, h, hr]

theorem markEvent_of_running {s : State} (h : s.station = .suspended) (hr : s.resume = some .running) :
    markEvent s = (s.setStation .running).setResume none := by
  rw [markEvent, h, hr]

theorem markEvent_of_listening {s : State} (h : s.station = .suspended) (hr : s.resume = some .listening) :
    markEvent s = (s.setStation .listening).setResume none := by
  rw [markEvent, h, hr]

/-- Settles O10: with the mark, the mark event of a state with number 0 and the flag set. -/
theorem unsynchronisedPulse : Obligations.UnsynchronisedPulse := by
  intro s hrest hacting hsync
  have edge : ∀ m, pulseEdge m s = if m = true then markEvent ((s.setInterval 0).setSynced true) else s := fun m => by
    rw [pulseEdge, if_pos hacting, hsync]
    rfl
  have keeps := markEvent_keeps ((s.setInterval 0).setSynced true)
  refine ⟨by rw [exec_spulseEdge_of_rested _ hrest, edge]; rfl, markEvent ((s.setInterval 0).setSynced true),
    by rw [exec_spulseEdge_of_rested _ hrest, edge]; rfl, keeps.interval_eq (by decide), keeps.synced_eq (by decide),
    fun hst hr => ?_, fun hst hr => ?_, fun hst hr => ?_, ?_⟩
  · rw [markEvent_of_syncing (s := (s.setInterval 0).setSynced true) hst hr]
    exact ⟨rfl, rfl, rfl⟩
  · rw [markEvent_of_running (s := (s.setInterval 0).setSynced true) hst hr]
    exact ⟨rfl, rfl, rfl⟩
  · rw [markEvent_of_listening (s := (s.setInterval 0).setSynced true) hst hr]
    exact ⟨rfl, rfl, rfl⟩
  · exact (((setInterval_keeps s 0).mono (by decide)).andThen (setSynced_keeps _ true) (by decide)).andThen keeps
      (by decide)

/-! ### The synchronised pulse -/

theorem pulseEdge_of_agreeing {s : State} {m : Bool} (ha : s.acting = true) (hs : s.synced = true)
    (hm : m = true → s.interval = 4095) : pulseEdge m s = pulseEvent (s.setInterval (s.interval + 1)) := by
  rw [pulseEdge, if_pos ha, if_pos hs]
  refine if_neg ?_
  rintro ⟨hmark, hne⟩
  refine hne ?_
  rw [hm hmark]
  rfl

theorem pulseEdge_of_mismatch {s : State} (ha : s.acting = true) (hs : s.synced = true) (hm : s.interval ≠ 4095) :
    pulseEdge true s = pulseEvent ((timingFault s).setInterval 0) := by
  rw [pulseEdge, if_pos ha, if_pos hs]
  refine if_pos ⟨rfl, fun h => hm ?_⟩
  have hlt := s.interval.isLt
  have hval := congrArg Fin.val h
  apply Fin.ext
  simp only [Fin.val_add] at hval
  change (s.interval.val + 1) % 4096 = 0 at hval
  change s.interval.val = 4095
  omega

/-- Settles O11: the pulse event at the next number. -/
theorem ordinaryPulse : Obligations.OrdinaryPulse := by
  intro s m hrest ha hs hm
  have keeps := ((setInterval_keeps s (s.interval + 1)).mono (l' := [.interval, .deadlinesDue, .closesDue, .placementsDue,
    .agenda, .contexts, .tags, .claims, .neighbours, .spacing, .listening, .resetSeq]) (by decide)).andThen
    (pulseEvent_keeps _) (by decide)
  refine ⟨pulseEvent (s.setInterval (s.interval + 1)), ?_, (pulseEvent_keeps _).interval_eq (by decide),
    pulseEvent_deadlinesDue _, pulseEvent_closesDue _, pulseEvent_placementsDue _, keeps⟩
  rw [exec_spulseEdge_of_rested _ hrest, pulseEdge_of_agreeing ha hs hm]

/-! ### The counts of a pulse event -/

theorem Context.freshened_eq {c : Context} (h : c.life ≠ .free) : c.freshened = c.aged := by
  rw [Context.freshened, if_pos (by simpa [Context.inUse] using h), Context.aged]
  cases c.sound with
  | none => rfl
  | some n => rw [Option.map_some, apply_ite some]

theorem pulsed_of_plain {p : Profile} {c c' : Context} (h : contextPulse p c = .plain c') : c.pulsed p = c'.freshened := by
  rw [Context.pulsed, h]

theorem pulsed_of_limit {p : Profile} {c : Context} (h : ∀ c', contextPulse p c ≠ .plain c') :
    c.pulsed p = c.freshened := by
  unfold Context.pulsed
  split
  · next hp => exact absurd hp (h _)
  all_goals rfl

section
variable {p : Profile} {c : Context}

theorem contextPulse_of_free (h : c.life = .free) : contextPulse p c = .plain c := by rw [contextPulse, h]

theorem contextPulse_of_admitting (h : c.life = .admitting) : contextPulse p c =
    if c.hold ≤ 1 then .holdEnd { c with life := .active, hold := 0, silence := 0, dormancy := 0 }
    else .plain { c with hold := c.hold - 1 } := by rw [contextPulse, h]

theorem contextPulse_of_active (h : c.life = .active) : contextPulse p c =
    if p.timeout c.kind ≤ c.silence + 1 then .recovery c.enterRecovery
    else dormancyTest p { c with silence := c.silence + 1 } := by rw [contextPulse, h]

theorem contextPulse_of_dormant (h : c.life = .dormant) : contextPulse p c =
    if p.timeout c.kind ≤ c.silence + 1 then .recovery c.enterRecovery
    else .plain { c with silence := c.silence + 1 } := by rw [contextPulse, h]

theorem contextPulse_of_recovery (h : c.life = .recovery) : contextPulse p c =
    if p.timeout c.kind ≤ c.silence + 1 then .lost else .plain { c with silence := c.silence + 1 } := by
  rw [contextPulse, h]

theorem backlog_eq_zero_iff (c : Context) : (c.backlog.dl = 0 ∧ c.backlog.ul = 0) ↔ c.backlog = ⟨0, 0⟩ := by
  cases c.backlog
  simp

theorem dormancyTest_eq (p : Profile) (c : Context) : dormancyTest p c =
    if c.backlog = ⟨0, 0⟩ then
      if p.dormancyTime ≤ c.dormancy + 1 then .dormant { c with life := .dormant, dormancy := 0 }
      else .plain { c with dormancy := c.dormancy + 1 }
    else .plain { c with dormancy := 0 } := by
  unfold dormancyTest
  simp only [backlog_eq_zero_iff]

/-- What a pulse event does to a context, by its lifecycle state and whether it reaches its limit. -/
theorem pulsed_counts (p : Profile) (c : Context) :
    (c.life = .free → c.pulsed p = c) ∧
    (c.life = .admitting → 1 < c.hold → c.pulsed p = { c.aged with hold := c.hold - 1 }) ∧
    (c.life = .admitting → c.hold ≤ 1 → c.pulsed p = c.aged) ∧
    (c.life = .active → c.silence + 1 < p.timeout c.kind → c.backlog ≠ ⟨0, 0⟩ →
      c.pulsed p = { c.aged with silence := c.silence + 1, dormancy := 0 }) ∧
    (c.life = .active → c.silence + 1 < p.timeout c.kind → c.backlog = ⟨0, 0⟩ →
      c.dormancy + 1 < p.dormancyTime → c.pulsed p = { c.aged with silence := c.silence + 1, dormancy := c.dormancy + 1 }) ∧
    (c.life = .active → c.silence + 1 < p.timeout c.kind → c.backlog = ⟨0, 0⟩ →
      p.dormancyTime ≤ c.dormancy + 1 → c.pulsed p = c.aged) ∧
    (c.life = .dormant ∨ c.life = .recovery → c.silence + 1 < p.timeout c.kind →
      c.pulsed p = { c.aged with silence := c.silence + 1 }) ∧
    (c.life = .active ∨ c.life = .dormant ∨ c.life = .recovery → p.timeout c.kind ≤ c.silence + 1 →
      c.pulsed p = c.aged) := by
  have inUse : ∀ {c : Context} {l : Life}, c.life = l → l ≠ .free → c.life ≠ .free := fun h hl => h ▸ hl
  refine ⟨fun h => ?_, fun h hh => ?_, fun h hh => ?_, fun h ht hb => ?_, fun h ht hb hd => ?_, fun h ht hb hd => ?_,
    fun h ht => ?_, fun h ht => ?_⟩
  · rw [pulsed_of_plain (contextPulse_of_free h), Context.freshened, if_neg (by simp [Context.inUse, h])]
  · have hplain := contextPulse_of_admitting (p := p) h
    rw [if_neg (by omega)] at hplain
    rw [pulsed_of_plain hplain, Context.freshened_eq (inUse (c := { c with hold := c.hold - 1 }) h (by decide))]
    rfl
  · have hlimit := contextPulse_of_admitting (p := p) h
    rw [if_pos hh] at hlimit
    rw [pulsed_of_limit (by simp [hlimit]), Context.freshened_eq (inUse h (by decide))]
  · have hplain := contextPulse_of_active (p := p) h
    rw [if_neg (by omega), dormancyTest_eq, if_neg hb] at hplain
    rw [pulsed_of_plain hplain, Context.freshened_eq (inUse (c := { c with silence := c.silence + 1, dormancy := 0 }) h
      (by decide))]
    rfl
  · have hplain := contextPulse_of_active (p := p) h
    rw [if_neg (by omega), dormancyTest_eq, if_pos hb, if_neg (by simpa using hd)] at hplain
    rw [pulsed_of_plain hplain, Context.freshened_eq (inUse (c := { c with
      silence := c.silence + 1, dormancy := c.dormancy + 1 }) h (by decide))]
    rfl
  · have hlimit := contextPulse_of_active (p := p) h
    rw [if_neg (by omega), dormancyTest_eq, if_pos hb, if_pos hd] at hlimit
    rw [pulsed_of_limit (by simp [hlimit]), Context.freshened_eq (inUse h (by decide))]
  · have hplain : contextPulse p c = .plain { c with silence := c.silence + 1 } := by
      rcases h with h | h
      · rw [contextPulse_of_dormant h, if_neg (by omega)]
      · rw [contextPulse_of_recovery h, if_neg (by omega)]
    have hused : ({ c with silence := c.silence + 1 } : Context).life ≠ .free := by
      rcases h with h | h
      · exact inUse (c := { c with silence := c.silence + 1 }) h (by decide)
      · exact inUse (c := { c with silence := c.silence + 1 }) h (by decide)
    rw [pulsed_of_plain hplain, Context.freshened_eq hused]
    rfl
  · have hlimit : ∀ c', contextPulse p c ≠ .plain c' := by
      intro c'
      rcases h with h | h | h
      · rw [contextPulse_of_active h, if_pos ht]; exact ContextPulse.noConfusion
      · rw [contextPulse_of_dormant h, if_pos ht]; exact ContextPulse.noConfusion
      · rw [contextPulse_of_recovery h, if_pos ht]; exact ContextPulse.noConfusion
    have hused : c.life ≠ .free := by rcases h with h | h | h <;> exact inUse h (by decide)
    rw [pulsed_of_limit hlimit, Context.freshened_eq hused]

end

/-! ### The limits a pulse event finds reached -/

/-- The context's item on the agenda. -/
theorem contextDue_eq_some {p : Profile} {i : Slot} {c : Context} {d : Due} : contextDue p i c = some d ↔
    (d = .admissionHoldEnd i ∧ c.life = .admitting ∧ c.hold ≤ 1) ∨
    (d = .silenceTimeout i ∧ (c.life = .active ∨ c.life = .dormant ∨ c.life = .recovery) ∧
      p.timeout c.kind ≤ c.silence + 1) ∨
    (d = .dormancy i ∧ c.life = .active ∧ c.silence + 1 < p.timeout c.kind ∧ c.backlog = ⟨0, 0⟩ ∧
      p.dormancyTime ≤ c.dormancy + 1) := by
  unfold contextDue
  cases h : c.life with
  | free => simp [contextPulse_of_free h]
  | admitting =>
    rw [contextPulse_of_admitting h]
    by_cases hh : c.hold ≤ 1
    · simp [hh, eq_comm]
    · simp [hh]
  | active =>
    rw [contextPulse_of_active h, dormancyTest_eq]
    by_cases ht : p.timeout c.kind ≤ c.silence + 1
    · simp [ht, ht.not_gt, eq_comm]
    · by_cases hb : c.backlog = ⟨0, 0⟩
      · by_cases hd : p.dormancyTime ≤ c.dormancy + 1
        · simp [ht, hb, hd, Nat.lt_of_not_le ht, eq_comm]
        · simp [ht, hb, hd]
      · simp [ht, hb]
  | dormant =>
    rw [contextPulse_of_dormant h]
    by_cases ht : p.timeout c.kind ≤ c.silence + 1
    · simp [ht, eq_comm]
    · simp [ht]
  | recovery =>
    rw [contextPulse_of_recovery h]
    by_cases ht : p.timeout c.kind ≤ c.silence + 1
    · simp [ht, eq_comm]
    · simp [ht]

theorem soundDue_eq_some {i : Slot} {c : Context} {d : Due} :
    soundDue i c = some d ↔ d = .soundPendingExpiry i ∧ ∃ k, c.sound = some k ∧ 7 ≤ k := by
  unfold soundDue
  cases c.sound with
  | none => simp
  | some n => by_cases h : 7 ≤ n <;> simp [h, eq_comm]

theorem quarantineDue_eq_some {g : Tag} {e : TagEntry} {d : Due} :
    quarantineDue g e = some d ↔ d = .quarantineEnd g ∧ e.quarantine = 1 := by
  unfold quarantineDue
  by_cases h : e.quarantine = 1 <;> simp [h, eq_comm]

/-- The limit of a band's phase, by its own claim state (R81, R82, R85). -/
theorem mem_phaseDue {c : OwnClaim} {b : Band} {d : Due} :
    d ∈ (if (match c.phase with
        | some n => decide (n ≤ 1)
        | none => false) then
      match c.state with
      | .announced => [Due.bandHeld b]
      | .held => [Due.refreshClaim b]
      | .releasing => [Due.settleEnd b]
      | .free => []
      else []) ↔
    (d = .bandHeld b ∧ c.state = .announced ∧ ∃ k, c.phase = some k ∧ k ≤ 1) ∨
    (d = .refreshClaim b ∧ c.state = .held ∧ ∃ k, c.phase = some k ∧ k ≤ 1) ∨
    (d = .settleEnd b ∧ c.state = .releasing ∧ ∃ k, c.phase = some k ∧ k ≤ 1) := by
  cases c.phase with
  | none => simp
  | some n =>
    by_cases hn : n ≤ 1
    · cases c.state <;> simp [hn]
    · simp [hn]

theorem mem_bandDue {s : State} {b : Band} {d : Due} : d ∈ bandDue s b ↔
    (d = .bandHeld b ∧ (s.own b).state = .announced ∧ ∃ k, (s.own b).phase = some k ∧ k ≤ 1) ∨
    (d = .refreshClaim b ∧ (s.own b).state = .held ∧ ∃ k, (s.own b).phase = some k ∧ k ≤ 1) ∨
    (d = .settleEnd b ∧ (s.own b).state = .releasing ∧ ∃ k, (s.own b).phase = some k ∧ k ≤ 1) ∨
    (d = .claimTransmitLimit b ∧ ∃ a, (s.own b).outstanding = some a ∧ 2 ≤ age s.interval a) ∨
    (d = .lastAssertExpiry b ∧ ∃ a, (s.own b).lastAssert = some a ∧ 8 ≤ age s.interval a) ∨
    (d = .neighbourEntryExpiry b ∧ ∃ e, s.neighbour b = some e ∧ 191 ≤ e.age) := by
  rw [bandDue, List.mem_append, List.mem_append, List.mem_append]
  refine (Iff.or (Iff.or (Iff.or mem_phaseDue ?_) ?_) ?_).trans
    (or_assoc.trans (or_assoc.trans (or_assoc.trans (Iff.or .rfl or_assoc))))
  · cases (s.own b).outstanding with
    | none => simp
    | some a => by_cases h : 2 ≤ age s.interval a <;> simp [h]
  · cases (s.own b).lastAssert with
    | none => simp
    | some a => by_cases h : 8 ≤ age s.interval a <;> simp [h]
  · cases s.neighbour b with
    | none => simp
    | some e => by_cases h : 191 ≤ e.age <;> simp [h]

theorem mem_stationDue {s : State} {d : Due} : d ∈ stationDue s ↔
    (d = .listeningEnd ∧ s.station = .listening ∧ s.listening ≤ 1) ∨
    (d = .resetSequenceTimeout ∧ ∃ k, s.resetSeq = some k ∧ 1 ≤ k) := by
  rw [stationDue, List.mem_append]
  refine Iff.or ?_ ?_
  case refine_2 =>
    cases s.resetSeq with
    | none => simp
    | some n => by_cases h : 1 ≤ n <;> simp [h]
  by_cases h : s.station = .listening ∧ s.listening ≤ 1
  · simp [h]
  · rw [if_neg h]
    simp only [List.not_mem_nil, false_iff, not_and]
    exact fun _ hst hl => h ⟨hst, hl⟩

/-- The agenda of a pulse event holds exactly what reaches its limit (log entry 1). -/
theorem mem_pulseAgenda (s : State) (d : Due) : d ∈ pulseAgenda s ↔ s.reachesLimit s.interval d := by
  have context : d ∈ allSlots.filterMap (fun i => contextDue s.profile i (s.ctx i)) ↔
      ∃ i, contextDue s.profile i (s.ctx i) = some d := by
    simp [List.mem_filterMap, mem_allSlots]
  have sound : d ∈ allSlots.filterMap (fun i => soundDue i (s.ctx i)) ↔ ∃ i, soundDue i (s.ctx i) = some d := by
    simp [List.mem_filterMap, mem_allSlots]
  have quarantine : d ∈ allTags.filterMap (fun g => quarantineDue g (s.tagEntry g)) ↔
      ∃ g, quarantineDue g (s.tagEntry g) = some d := by
    simp [List.mem_filterMap, allTags]
  have band : d ∈ allBands.flatMap (bandDue s) ↔ ∃ b, d ∈ bandDue s b := by
    simp [List.mem_flatMap, allBands]
  rw [pulseAgenda, List.mem_append, List.mem_append, List.mem_append, List.mem_append, context, sound, quarantine, band]
  simp only [contextDue_eq_some, soundDue_eq_some, quarantineDue_eq_some, mem_bandDue, mem_stationDue]
  cases d <;> simp [State.reachesLimit]

/-- The counts of a pulse event, field by field. -/
theorem pulseEvent_counted (s : State) : PulseCounted s (pulseEvent s) s.interval := by
  refine ⟨fun i => ?_, fun g => ?_, fun b => ?_, fun b => ?_, pulseEvent_spacing s, pulseEvent_listening s,
    pulseEvent_resetSeq s, fun d => ?_⟩
  · intro c
    rw [pulseEvent_ctx]
    exact pulsed_counts s.profile c
  · rw [pulseEvent_tagEntry, TagEntry.pulsed]
    by_cases h : (s.tagEntry g).quarantine ≤ 1
    · rw [if_pos h, if_neg (Nat.not_lt.mpr h)]
    · rw [if_neg h, if_pos (Nat.lt_of_not_le h)]
  · rw [pulseEvent_own, OwnClaim.pulsed]
    cases (s.own b).phase with
    | none => rfl
    | some n => rw [Option.map_some, apply_ite some]
  · rw [pulseEvent_neighbour]
    congr 1
    funext e
    rw [PeerEntry.pulsed]
    split <;> rfl
  · rw [pulseEvent_agenda]
    exact mem_pulseAgenda s d

/-- Settles O12: the counts of the pulse event at the next number. -/
theorem pulseCounts : Obligations.PulseCounts := by
  intro s m hrest ha hs hm
  refine ⟨pulseEvent (s.setInterval (s.interval + 1)), ?_, pulseEvent_counted (s.setInterval (s.interval + 1))⟩
  rw [exec_spulseEdge_of_rested _ hrest, pulseEdge_of_agreeing ha hs hm]

/-! ### The timing fault -/

theorem raised_raise_of_ne {c d : Condition} {s : State} (hc : d ≠ c) (hx : d ≠ .txFail) :
    (raise c s).raised d = s.raised d := by
  rcases raise_flags c s with h | h
  · rw [State.raised, h, BitVec.getLsbD_or, bit_getLsbD, decide_eq_false hc.symm, Bool.or_false]
    rfl
  · rw [State.raised, h, BitVec.getLsbD_or, BitVec.getLsbD_or, bit_getLsbD, bit_getLsbD, decide_eq_false hc.symm,
      decide_eq_false hx.symm, Bool.or_false, Bool.or_false]
    rfl

/-- The telegrams a discard takes: the GRANT LISTs that are QUEUED in the register (R148). -/
theorem any_queuedList (s : State) (x : TxTelegram) :
    (s.register.any fun e => s.queuedList e.interval x) = s.ofQueuedList x := by
  rw [Bool.eq_iff_iff, List.any_eq_true]
  cases hown : x.owner with
  | grantList n k =>
    have hq : ∀ m, s.queuedList m x = true ↔ n = m ∧ s.listState m k = some .queued := fun m => by
      rw [State.queuedList, hown]
      by_cases hm : n = m <;> simp [Owner.listSeq, hm]
    have ho : s.ofQueuedList x = true ↔ s.listState n k = some .queued := by
      rw [State.ofQueuedList, hown, decide_eq_true_eq]
    simp only [hq, ho]
    constructor
    · rintro ⟨e, -, rfl, h⟩
      exact h
    · intro h
      obtain ⟨e, he, -⟩ := Option.bind_eq_some_iff.mp h
      have hi := List.find?_some he
      rw [decide_eq_true_eq] at hi
      exact ⟨e, List.mem_of_find?_eq_some he, hi.symm, hi ▸ h⟩
  | claim b => simp [State.queuedList, State.ofQueuedList, hown, Owner.listSeq]
  | bandRelease b q => simp [State.queuedList, State.ofQueuedList, hown, Owner.listSeq]
  | unreported => simp [State.queuedList, State.ofQueuedList, hown, Owner.listSeq]
  | disowned => simp [State.queuedList, State.ofQueuedList, hown, Owner.listSeq]

theorem discardRecords_queue (s : State) : (discardRecords s).txQueue =
    (s.txQueue.filter fun x => !(s.ofQueuedList x && !x.onWire)).map fun x =>
      if s.ofQueuedList x then { x with removal := true, owner := .disowned } else x := by
  have h : (discardRecords s).txQueue = removeTelegrams (fun x => s.register.any fun e => s.queuedList e.interval x)
    TxTelegram.markedDisowned s.txQueue := rfl
  rw [h, funext (any_queuedList s)]
  rfl

theorem ofQueuedList_of_keeps {l : List Field} {s t : State} (hk : Keeps l s t) (hl : .register ∉ l) :
    t.ofQueuedList = s.ofQueuedList := by
  funext x
  rw [State.ofQueuedList, State.ofQueuedList, listState_of_keeps hk hl]

theorem faultRefresh_own (s : State) (b : Band) : (faultRefresh s).own b =
    if (s.own b).state = .held then { s.own b with phase := some 1 } else s.own b := by
  simp [faultRefresh, State.own]

/-- No QUEUED GRANT LIST keeps its owner. -/
theorem disowned_of_mem {s : State} {q : List TxTelegram} {x : TxTelegram}
    (hx : x ∈ (q.filter fun x => !(s.ofQueuedList x && !x.onWire)).map fun x =>
      if s.ofQueuedList x then { x with removal := true, owner := .disowned } else x) {n : Interval} {k : Nat}
    (hown : x.owner = .grantList n k) : s.listState n k ≠ some .queued := by
  obtain ⟨y, -, rfl⟩ := List.mem_map.mp hx
  split at hown
  · cases hown
  · next hnot =>
    intro hq
    exact hnot (by rw [State.ofQueuedList, hown]; exact decide_eq_true hq)

/-- What a timing fault discards, every backlog being in its range. -/
theorem timingFault_discards {s : State} (hb : BacklogLaw s) : Discards s (timingFault s) := by
  have hraise := raise_keeps .timingFault s
  generalize hr : raise .timingFault s = r at hraise
  have hctx : ∀ i, r.ctx i = s.ctx i := hraise.ctx_eq (by decide)
  have hof := ofQueuedList_of_keeps hraise (by decide)
  have hbr : BacklogLaw r := fun i d => by rw [hctx]; exact hb i d
  have hout : r.outstanding = s.outstanding := by
    funext i d
    rw [outstanding_eq, outstanding_eq, hraise.records_eq (by decide)]
  have hfault : timingFault s = faultRefresh (abandonPlacement (discardRecords r)) := by rw [timingFault, hr]
  have hcontext : ∀ i, (timingFault s).ctx i = (discardRecords r).ctx i := fun i => by
    rw [hfault, (faultRefresh_keeps _).ctx_eq (by decide), (abandonPlacement_keeps _).ctx_eq (by decide)]
  have hqueue : (timingFault s).txQueue = (r.txQueue.filter fun x => !(s.ofQueuedList x && !x.onWire)).map fun x =>
      if s.ofQueuedList x then { x with removal := true, owner := .disowned } else x := by
    rw [← hof, ← discardRecords_queue, hfault]
    rfl
  have hflags : (timingFault s).flags = r.flags := by
    rw [hfault, (faultRefresh_keeps _).flags_eq (by decide), (abandonPlacement_keeps _).flags_eq (by decide),
      (discardRecords_keeps r).flags_eq (by decide)]
  refine ⟨rfl, rfl, rfl, rfl, rfl, rfl, fun i d hu => ?_, fun i d => ?_, fun i => ?_, fun b => ?_, fun x hx n k hown => ?_,
    ?_, ?_, ?_, fun c hc hx => ?_, ?_⟩
  · rw [hcontext, discardRecords_pending, hctx, if_pos hu]
  · rw [hcontext, discardRecords_backlog hbr, hctx, hout]
  · rw [hcontext, ← hctx]
    exact discardRecords_ctx_eq r i
  · rw [hfault, faultRefresh_own]
    have hown : (abandonPlacement (discardRecords r)).own b = s.own b := by
      rw [(abandonPlacement_keeps _).own_eq (by decide), (discardRecords_keeps r).own_eq (by decide),
        hraise.own_eq (by decide)]
    rw [hown]
  · rw [hqueue] at hx
    exact disowned_of_mem hx hown
  · rw [hqueue, hr]
  · rw [State.raised, hflags, ← hr]
    exact raise_raised _ _ _ (.inl rfl)
  · rw [hflags, hr]
  · rw [State.raised, hflags, ← hr]
    exact raised_raise_of_ne hc hx
  · rw [(timingFault_keeps s).cause_eq (by decide)]

/-- Settles O13: the discard, then the pulse event of interval 0. -/
theorem markMismatch : Obligations.MarkMismatch := by
  intro s hrest ha hs hm hb
  have fault := timingFault_keeps s
  have hst : ((timingFault s).setInterval 0).station = s.station := by
    rw [setInterval_station, fault.station_eq (by decide)]
  have keeps := ((setInterval_keeps (timingFault s) 0).mono (l' := [.interval, .deadlinesDue, .closesDue, .placementsDue,
    .agenda, .contexts, .tags, .claims, .neighbours, .spacing, .listening, .resetSeq]) (by decide)).andThen
    (pulseEvent_keeps _) (by decide)
  have discards := timingFault_discards hb
  obtain ⟨hopen, -, hplacements⟩ := timingFault_idle s
  have hdeadlines : (timingFault s).deadlinesDue = [] := rfl
  generalize hv : timingFault s = v at *
  refine ⟨pulseEvent (v.setInterval 0), v, ?_, discards, hdeadlines, hplacements, fault.mono (by decide),
    pulseEvent_counted (v.setInterval 0), (pulseEvent_keeps _).interval_eq (by decide), ?_, ?_, ?_, keeps⟩
  · rw [exec_spulseEdge_of_rested _ hrest, pulseEdge_of_mismatch ha hs hm, hv]
  · rw [pulseEvent_deadlinesDue, setInterval_deadlinesDue, hdeadlines]
    rfl
  · rw [pulseEvent_closesDue, setInterval_openIntervals, hopen]
    rfl
  · rw [pulseEvent_placementsDue, hst, setInterval_placementsDue, hplacements]
    rfl

/-! ### Pulse loss -/

theorem loseSync_of_synced {s : State} (h : s.synced = true) : loseSync s =
    if s.resetSeq.isSome then stationReset s else suspend ((timingFault s).setSynced false) := by
  have hseq : ((timingFault s).setSynced false).resetSeq = s.resetSeq := by
    rw [setSynced_resetSeq, (timingFault_keeps s).resetSeq_eq (by decide)]
  rw [loseSync, if_pos h]
  dsimp only
  rw [hseq, stationReset_faulted]

/-- What a timing fault discards is discarded with the flag cleared and the station suspended as well. -/
theorem Discards.of_keeps {s t u : State} (h : Discards s t) (hk : Keeps [.synced, .station, .resume] t u) :
    Discards s u := by
  have hctx : ∀ i, u.ctx i = t.ctx i := hk.ctx_eq (by decide)
  have hown : ∀ b, u.own b = t.own b := hk.own_eq (by decide)
  have hraised : ∀ c, u.raised c = t.raised c := fun c => by rw [State.raised, hk.flags_eq (by decide)]; rfl
  simp only [Discards, hctx, hown, hraised, hk.records_eq (by decide), hk.openIntervals_eq (by decide),
    hk.register_eq (by decide), hk.closesDue_eq (by decide), hk.flight_eq (by decide), hk.inFlight_eq (by decide),
    hk.txQueue_eq (by decide), hk.flags_eq (by decide), hk.cause_eq (by decide)]
  exact h

/-- Settles O14: not synchronised, in a reset sequence, or suspended. -/
theorem pulseLossSuspends : Obligations.PulseLossSuspends := by
  intro s hrest ha
  have run : exec .pulseLoss s = .next (loseSync s) := by rw [exec, execPulseLoss, settleAll_of_rested hrest]
  refine ⟨fun hs => ?_, fun hs hseq => ?_, fun hs hseq hb => ?_⟩
  · rw [run, loseSync, hs]
    rfl
  · rw [run, loseSync_of_synced hs, if_pos (Option.isSome_iff_ne_none.mpr hseq)]
    exact ⟨_, rfl, stationReset_spec s⟩
  · have lost : Keeps [.synced, .station, .resume] (timingFault s) (suspend ((timingFault s).setSynced false)) :=
      ((setSynced_keeps _ false).mono (by decide)).andThen (suspend_keeps _) (by decide)
    have hst : ((timingFault s).setSynced false).station = s.station := by
      rw [setSynced_station, (timingFault_keeps s).station_eq (by decide)]
    refine ⟨suspend ((timingFault s).setSynced false), ?_, (suspend_keeps _).synced_eq (by decide),
      (timingFault_discards hb).of_keeps lost, lost.deadlinesDue_eq (by decide), lost.placementsDue_eq (by decide),
      fun h => ?_, fun h => ?_, ((timingFault_keeps s).mono (by decide)).andThen lost (by decide)⟩
    · rw [run, loseSync_of_synced hs, hseq]
      rfl
    · rw [suspend, hst, h]
      exact ⟨rfl, rfl⟩
    · rw [suspend, hst, h]
      exact ⟨rfl, rfl⟩

end Sys2Proof.Machine
end

section
/-! The threshold rows of contexts, tags, bands and neighbour entries (R18 to R27, R61, R77 to R85, R91), the claim decision
(R78) and a heard CLAIM on an own band (R88, R89). -/
namespace Sys2Proof.Machine

theorem exec_of_dueNow {c : Instr} {d : Due} {s : State} (hc : itemOf c = some d) (h : s.dueNow d) :
    exec c s = .next (perform d (s.taking d)) := by
  rw [exec_threshold hc, threshold_of_dueNow h]

/-! ### Contexts and tags -/

theorem pulseSlot_of_recovery {i : Slot} {s : State} {c : Context} (h : contextPulse s.profile (s.ctx i) = .recovery c) :
    pulseSlot i s = s.putCtx i c := by rw [pulseSlot, h]

theorem pulseSlot_of_lost {i : Slot} {s : State} (h : contextPulse s.profile (s.ctx i) = .lost) :
    pulseSlot i s = releaseContext i .lost s := by rw [pulseSlot, h]

theorem pulseSlot_of_holdEnd {i : Slot} {s : State} {c : Context} (h : contextPulse s.profile (s.ctx i) = .holdEnd c) :
    pulseSlot i s = s.putCtx i c := by rw [pulseSlot, h]

theorem pulseSlot_of_dormant {i : Slot} {s : State} {c : Context} (h : contextPulse s.profile (s.ctx i) = .dormant c) :
    pulseSlot i s = s.putCtx i c := by rw [pulseSlot, h]

/-- Settles O15: each item's share of the pulse, by what the context reaches. -/
theorem contextTimersEnd : Obligations.ContextTimersEnd := by
  refine ⟨fun i s hdue hlife hhold => ?_, fun i s hdue hlife hsil hback hdorm => ?_, fun i s hdue hsil =>
    ⟨fun hlife => ?_, fun hlife => ?_⟩, fun g s hdue => ?_, fun i s hdue => ?_, fun p => ⟨rfl, rfl, rfl, rfl, rfl, rfl⟩⟩
  · have hpulse := contextPulse_of_admitting (p := s.profile) hlife
    rw [if_pos hhold] at hpulse
    rw [exec_of_dueNow rfl hdue]
    exact congrArg Host.Outcome.next (pulseSlot_of_holdEnd (s := s.taking _) hpulse)
  · have hpulse := contextPulse_of_active (p := s.profile) hlife
    rw [if_neg (by omega), dormancyTest_eq, if_pos hback, if_pos hdorm] at hpulse
    rw [exec_of_dueNow rfl hdue]
    exact congrArg Host.Outcome.next (pulseSlot_of_dormant (s := s.taking _) hpulse)
  · have hpulse : contextPulse s.profile (s.ctx i) = .recovery (s.ctx i).enterRecovery := by
      rcases hlife with h | h
      · rw [contextPulse_of_active h, if_pos hsil]
      · rw [contextPulse_of_dormant h, if_pos hsil]
    rw [exec_of_dueNow rfl hdue]
    exact congrArg Host.Outcome.next (pulseSlot_of_recovery (s := s.taking _) hpulse)
  · have hpulse := contextPulse_of_recovery (p := s.profile) hlife
    rw [if_pos hsil] at hpulse
    rw [exec_of_dueNow rfl hdue]
    exact congrArg Host.Outcome.next (pulseSlot_of_lost (s := s.taking _) hpulse)
  · exact exec_of_dueNow rfl hdue
  · exact exec_of_dueNow rfl hdue

/-! ### Bands -/

/-- Settles O23: the four items that write one record. -/
theorem bandTimersEnd : Obligations.BandTimersEnd := by
  intro b s
  refine ⟨fun hdue hst => ?_, fun hdue hst => ?_, fun hdue => exec_of_dueNow rfl hdue, fun hdue => exec_of_dueNow rfl hdue⟩
  · rw [exec_of_dueNow rfl hdue]
    exact congrArg Host.Outcome.next (if_pos hst)
  · rw [exec_of_dueNow rfl hdue]
    exact congrArg Host.Outcome.next (if_pos hst)

/-- Counting back 1024 intervals gives one of that age (R9). -/
theorem age_sub_1024 (now : Interval) : age now (now - 1024) = 1024 := by
  rw [age, sub_sub_cancel]
  rfl

theorem age_cappedAnnouncement (now a : Interval) : age now (cappedAnnouncement now a) = min 1024 (age now a) := by
  rw [cappedAnnouncement]
  split
  · next h => exact (Nat.min_eq_right h).symm
  · next h => rw [age_sub_1024, Nat.min_eq_left (Nat.le_of_not_le h)]

theorem refreshBand_of_outstanding {b : Band} {s : State} (hst : (s.own b).state = .held)
    (ho : (s.own b).outstanding ≠ none) : refreshBand b s = s.putOwn b { s.own b with phase := some 64 } := by
  obtain ⟨a, ha⟩ := Option.ne_none_iff_exists'.mp ho
  rw [refreshBand]
  dsimp only
  rw [if_pos hst, ha]

theorem refreshBand_of_quiet {b : Band} {s : State} (hst : (s.own b).state = .held)
    (ho : (s.own b).outstanding = none) : refreshBand b s = reannounce b (s.own b) s := by
  rw [refreshBand, if_pos hst, ho]

/-- A re-announcement, the announcement interval being present. -/
theorem reannounce_of_announced {b : Band} {c : OwnClaim} {s : State} {a : Interval} (h : c.announced = some a) :
    reannounce b c s = offer (telegram .claim 15 (claimPayload b (cappedAnnouncement s.interval a)) (.claim b))
      (s.putOwn b { c with announced := some (cappedAnnouncement s.interval a), outstanding := some s.interval
                           phase := some 64 }) := by
  rw [reannounce, h]
  rfl

/-- Settles O24: with a CLAIM outstanding the count alone; else the re-announcement. -/
theorem refreshClaimQueued : Obligations.RefreshClaimQueued := by
  refine ⟨fun b a s hdue hst ha => ⟨fun ho => ?_, fun ho => ?_⟩, fun now a =>
    ⟨age_cappedAnnouncement now a, fun h => if_pos h⟩⟩
  · rw [exec_of_dueNow rfl hdue]
    exact congrArg Host.Outcome.next (refreshBand_of_outstanding (s := s.taking _) hst ho)
  · rw [exec_of_dueNow rfl hdue]
    exact congrArg Host.Outcome.next ((refreshBand_of_quiet (s := s.taking _) hst ho).trans
      (reannounce_of_announced (s := s.taking _) ha))

/-- The band's CLAIM stands in the queue, not on the wire. -/
def State.claimWaits (s : State) (b : Band) : Bool := s.txQueue.any fun x => x.owner.isClaimOf b && !x.onWire

theorem claimWaits_iff (s : State) (b : Band) :
    s.claimWaits b = true ↔ ∃ x ∈ s.txQueue, x.owner = .claim b ∧ x.onWire = false := by
  simp [State.claimWaits, Owner.isClaimOf]

theorem limitClaim_of_old {b : Band} {s : State} {a : Interval} (ha : (s.own b).outstanding = some a)
    (hold : 2 ≤ age s.interval a) : limitClaim b s =
      if s.claimWaits b then
        claimGone b (s.setTxQueue (removeTelegrams (fun x => x.owner.isClaimOf b) TxTelegram.marked s.txQueue))
      else s.setTxQueue (removeTelegrams (fun x => x.owner.isClaimOf b) TxTelegram.marked s.txQueue) := by
  rw [limitClaim, ha]
  exact if_neg (Nat.not_lt.mpr hold)

theorem claimGone_of_first {b : Band} {s : State} (ho : (s.own b).outstanding ≠ none)
    (hst : (s.own b).state = .announced) (hp : (s.own b).phase = none) : claimGone b s = s.putOwn b (s.own b).withdrawn := by
  obtain ⟨a, ha⟩ := Option.ne_none_iff_exists'.mp ho
  rw [claimGone, ha]
  exact if_pos ⟨hst, hp⟩

theorem claimGone_of_later {b : Band} {s : State} (ho : (s.own b).outstanding ≠ none)
    (h : (s.own b).state ≠ .announced ∨ (s.own b).phase ≠ none) :
    claimGone b s = s.putOwn b { s.own b with outstanding := none } := by
  obtain ⟨a, ha⟩ := Option.ne_none_iff_exists'.mp ho
  rw [claimGone, ha]
  exact if_neg fun hm => h.elim (fun h => h hm.1) fun h => h hm.2

/-- Settles O25: the CLAIM waits in the queue, a first or a later one, or it is on the wire. -/
theorem claimTransmitLimitTaken : Obligations.ClaimTransmitLimitTaken := by
  intro b a s hdue ha hold u
  have hout : (u.own b).outstanding ≠ none := by
    show (s.own b).outstanding ≠ none
    rw [ha]
    exact Option.some_ne_none a
  have run : exec (.claimTransmitLimit b) s = .next (if s.claimWaits b then claimGone b u else u) := by
    rw [exec_of_dueNow rfl hdue]
    exact congrArg Host.Outcome.next (limitClaim_of_old (s := s.taking _) ha hold)
  refine ⟨fun hw hst hp => ?_, fun hw hlater => ?_, fun hwire => ?_⟩
  · rw [run, if_pos ((claimWaits_iff s b).mpr hw), claimGone_of_first hout hst hp]
    rfl
  · rw [run, if_pos ((claimWaits_iff s b).mpr hw), claimGone_of_later hout hlater]
    rfl
  · rw [run, if_neg fun h => ?_]
    obtain ⟨x, hx, hown, hfree⟩ := (claimWaits_iff s b).mp h
    rw [hwire x hx hown] at hfree
    cases hfree

theorem settle_of_newClaim {s : State} (h : s.agenda = [.newClaim]) : settle s = decideClaim (s.setAgenda []) := by
  rw [settle, h]
  rfl

/-- A threshold that leaves a claim decision alone on the agenda makes it, too (log entry 1). -/
theorem threshold_of_last {d : Due} {s : State} (h : d ∈ s.agenda) (hleft : (perform d (s.taking d)).agenda = [.newClaim]) :
    threshold d s = settle (perform d (s.taking d)) := by
  rw [threshold, if_pos (by simpa using h)]
  exact if_pos hleft

/-- Settles O26: the release of the band; the claim decision follows when it alone is left. -/
theorem idleReleaseTaken : Obligations.IdleReleaseTaken := by
  intro b s hdue hst u released
  have hdone : perform (.idleRelease b) (s.taking (.idleRelease b)) = released := if_pos hst
  have hagenda : released.agenda = (s.taking (.idleRelease b)).agenda := by
    rw [← hdone]
    exact (releaseIdle_keeps b _).agenda_eq (by decide)
  refine ⟨fun hleft => ?_, fun hleft => ?_⟩
  · rw [exec_threshold rfl, threshold_of_due hdue, hdone]
    rw [hdone, hagenda]
    exact hleft
  · rw [exec_threshold rfl, threshold_of_last hdue (by rw [hdone, hagenda, hleft]), hdone,
      settle_of_newClaim (hagenda.trans hleft)]

/-! ### The claim decision -/

theorem decideClaim_of_none {s : State} (h : ∀ b, s.claimable b = false) : decideClaim s = s := by
  have hnone : allBands.find? s.claimable = none := List.find?_eq_none.mpr fun b _ => by simp [h b]
  rw [decideClaim, hnone]
  exact ite_self s

/-- Settles O27: the conditions of R78, and the lowest claimable band. -/
theorem claimDecision : Obligations.ClaimDecision := by
  intro s
  refine ⟨fun h => ?_, fun b hdemand hspacing hquota hstation hseq hclaim hlow => ?_⟩
  · by_cases hnone : ∀ b, s.claimable b = false
    · exact decideClaim_of_none hnone
    · refine if_neg ?_
      rintro ⟨h1, h2, h3, h4, h5⟩
      rcases h with h | h | h | h | h | h
      · exact h h1
      · exact h h2
      · exact absurd h3 (Nat.not_lt.mpr h)
      · exact h h4
      · exact h h5
      · exact hnone h
  · have hfind : allBands.find? s.claimable = some b := find?_finRange_eq_some hclaim hlow
    rw [decideClaim, if_pos ⟨hdemand, hspacing, hquota, hstation, hseq⟩, hfind]
    rfl

/-! ### A heard CLAIM on an own band -/

theorem hearClaim_of_claimed {s : State} {source : Station} {b : Band} {a own : Interval}
    (hclaimed : (s.own b).claimed = true) (hann : (s.own b).announced = some own) : hearClaim source b a s =
      if winsClaim own a s.ownStation source then keepClaim b s
      else loseClaim b { station := source, interval := a, age := 0 } s := by
  rw [hearClaim, if_pos hclaimed, hann]
  rfl

theorem keepClaim_of_announced {s : State} {b : Band} (h : (s.own b).state = .announced) : keepClaim b s = s := by
  rw [keepClaim, h]

theorem keepClaim_of_asserted {s : State} {b : Band} (h : (s.own b).state = .held) (hl : (s.own b).lastAssert ≠ none) :
    keepClaim b s = s := by
  obtain ⟨x, hx⟩ := Option.ne_none_iff_exists'.mp hl
  rw [keepClaim, h, hx]

theorem keepClaim_of_outstanding {s : State} {b : Band} (h : (s.own b).state = .held)
    (hl : (s.own b).lastAssert = none) (ho : (s.own b).outstanding ≠ none) :
    keepClaim b s = s.putOwn b { s.own b with lastAssert := some s.interval } := by
  obtain ⟨x, hx⟩ := Option.ne_none_iff_exists'.mp ho
  rw [keepClaim]
  dsimp only
  rw [h, hl, hx]

theorem keepClaim_of_quiet {s : State} {b : Band} (h : (s.own b).state = .held)
    (hl : (s.own b).lastAssert = none) (ho : (s.own b).outstanding = none) :
    keepClaim b s = reannounce b { s.own b with lastAssert := some s.interval } s := by
  rw [keepClaim]
  dsimp only
  rw [h, hl, ho]

theorem loseClaim_of_announced {s : State} {b : Band} (peer : PeerEntry) (h : (s.own b).state = .announced) :
    loseClaim b peer s = dropClaim b (((raise .claimLost s).putNeighbour b (some peer)).putOwn b
      { (s.own b).withdrawn with backoff := 64 }) := by
  rw [loseClaim, h]

theorem loseClaim_of_held {s : State} {b : Band} (peer : PeerEntry) (h : (s.own b).state = .held) :
    loseClaim b peer s = releaseBand b false { s.own b with backoff := 64 }
      ((raise .claimLost s).putNeighbour b (some peer)) := by
  rw [loseClaim]
  dsimp only
  rw [h]

theorem claimed_of_state {c : OwnClaim} (h : c.state = .announced ∨ c.state = .held) : c.claimed = true := by
  rcases h with h | h <;> simp [OwnClaim.claimed, h]

/-- Settles O28: kept or lost, by the claim's state, the last assert and the outstanding CLAIM. -/
theorem heardClaimOnOwnBand : Obligations.HeardClaimOnOwnBand := by
  intro s source b a own rest hhead hsource hann u c lost dropped
  have heard : (s.own b).state = .announced ∨ (s.own b).state = .held →
      exec .claim s = .next (if winsClaim own a s.ownStation source then keepClaim b u
        else loseClaim b { station := source, interval := a, age := 0 } u) := fun h => by
    rw [exec_claim_of_band hhead hsource]
    exact congrArg Host.Outcome.next (hearClaim_of_claimed (s := u) (claimed_of_state h) hann)
  refine ⟨fun hst hw => ?_, fun hst hw hl => ?_, fun hst hw hl ho => ?_, fun hst hw hl ho => ?_, fun hst hw => ?_,
    fun hst hw => ?_⟩
  · rw [heard (.inl hst), if_pos hw, keepClaim_of_announced (s := u) hst]
  · rw [heard (.inr hst), if_pos hw, keepClaim_of_asserted (s := u) hst hl]
  · rw [heard (.inr hst), if_pos hw, keepClaim_of_outstanding (s := u) hst hl ho]
    rfl
  · rw [heard (.inr hst), if_pos hw, keepClaim_of_quiet (s := u) hst hl ho]
    exact congrArg Host.Outcome.next (reannounce_of_announced (s := u) hann)
  · rw [heard (.inl hst), hw, if_neg Bool.false_ne_true, loseClaim_of_announced (s := u) _ hst]
    rfl
  · rw [heard (.inr hst), hw, if_neg Bool.false_ne_true, loseClaim_of_held (s := u) _ hst]
    rfl

end Sys2Proof.Machine
end

section
/-! Telegram rows: what they pass over or discard (R39, R40, R87, R142, R163), RESET (R93, R177) and QUERY (R163 to R165). -/
namespace Sys2Proof.Machine

/-! ### The rows as a table -/

/-- The row takes telegrams of a kind from the head of the buffer, and discards one without its layout. -/
structure TakesKind (c : Instr) (k : Kind) (mine : RxTelegram → Bool) (act : RxTelegram → State → State) : Prop where
  run : ∀ s, exec c s = .next (takeHead mine act (settle s))
  other : ∀ t : RxTelegram, t.kind ≠ k → mine t = false
  unread : ∀ t : RxTelegram, t.kind = k → layoutHolds k t.payload = false → mine t = true ∧ ∀ s, act t s = s

theorem onPayload_of_unread {α : Type} {read : List Byte → Option α} {act : α → State → State} {t : RxTelegram}
    (h : read t.payload = none) (s : State) : onPayload read act t s = s := by rw [onPayload, h]

/-- A row that takes its kind and reads its payload. -/
theorem takesKind_of_read {c : Instr} {k : Kind} {act : RxTelegram → State → State}
    (run : ∀ s, exec c s = .next (takeHead (·.isKind k) act (settle s)))
    (unread : ∀ t : RxTelegram, layoutHolds k t.payload = false → ∀ s, act t s = s) : TakesKind c k (·.isKind k) act where
  run := run
  other _ h := decide_eq_false h
  unread t h hl := ⟨decide_eq_true h, unread t hl⟩

theorem length_ne {p : List Byte} {n : Nat} (h : (p.length == n) = false) : p.length ≠ n := by simpa using h

theorem readTag_eq_none {p : List Byte} (h : (p.length == 1) = false) : readTag p = none :=
  if_neg (length_ne h)

theorem readQuery_eq_none {p : List Byte} (h : layoutHolds .query p = false) : readQuery p = none := by
  unfold readQuery
  split
  · next hlen =>
    obtain ⟨a, b, rfl⟩ := List.length_eq_two.mp hlen
    have hb := b.isLt
    have hword : wordOf [a, b] = a.toNat * 256 + b.toNat := by simp [wordOf]
    have hsel : bits (wordOf [a, b]) 15 8 = a.toNat := by
      have ha := a.isLt
      rw [bits_eq, hword]
      omega
    simp [layoutHolds, ← BitVec.toNat_inj] at h
    dsimp only
    rw [hsel]
    split
    · next h0 => exact absurd h0 h.1
    · next h1 => exact absurd h1 h.2
    · rfl
  · rfl

theorem readUsage_eq_none {p : List Byte} (h : layoutHolds .usage p = false) : readUsage p = none := by
  unfold readUsage
  refine if_neg ?_
  rintro ⟨hlen, hcount, htotal⟩
  match p, hlen with
  | a :: b :: c :: rest, _ =>
    have hword : wordOf [a, b, c] = (a.toNat * 256 + b.toNat) * 256 + c.toNat := by simp [wordOf]
    have hn : bits (wordOf [a, b, c]) 4 0 = c.toNat % 32 := by
      rw [bits_eq, hword]
      omega
    simp only [List.take_succ_cons, List.take_zero, hn] at hcount htotal
    simp [layoutHolds, hcount] at h
    simp at htotal
    omega

/-- Every telegram row takes its kind. -/
theorem takesKind {c : Instr} {k : Kind} (h : kindOf c = some k) : ∃ mine act, TakesKind c k mine act := by
  cases c with
  | attach =>
    cases h
    exact ⟨_, _, takesKind_of_read (fun _ => rfl) fun _ hl => onPayload_of_unread (if_neg (length_ne hl))⟩
  | detach => cases h; exact ⟨_, _, takesKind_of_read (fun _ => rfl) fun _ hl => onPayload_of_unread (readTag_eq_none hl)⟩
  | quality =>
    cases h
    exact ⟨_, _, takesKind_of_read (fun _ => rfl) fun _ hl => onPayload_of_unread (if_neg (length_ne hl))⟩
  | range =>
    cases h
    exact ⟨_, _, takesKind_of_read (fun _ => rfl) fun _ hl => onPayload_of_unread (if_neg (length_ne hl))⟩
  | buffer =>
    cases h
    exact ⟨_, _, takesKind_of_read (fun _ => rfl) fun _ hl => onPayload_of_unread (if_neg (length_ne hl))⟩
  | usage => cases h; exact ⟨_, _, takesKind_of_read (fun _ => rfl) fun _ hl => onPayload_of_unread (readUsage_eq_none hl)⟩
  | claim =>
    cases h
    exact ⟨_, _, takesKind_of_read (fun _ => rfl) fun _ hl => onPayload_of_unread (if_neg (length_ne hl))⟩
  | bandRelease =>
    cases h
    exact ⟨_, _, takesKind_of_read (fun _ => rfl) fun _ hl => onPayload_of_unread (if_neg (length_ne hl))⟩
  | peerAdmit =>
    cases h
    exact ⟨_, _, takesKind_of_read (fun _ => rfl) fun _ hl => onPayload_of_unread (if_neg (length_ne hl))⟩
  | queryByTag =>
    cases h
    refine ⟨_, _, fun _ => rfl, fun t hk => ?_, fun t hk hl => ⟨?_, onPayload_of_unread (readQuery_eq_none hl)⟩⟩
    · simp [RxTelegram.isTagQuery, RxTelegram.isKind, hk]
    · simp [RxTelegram.isTagQuery, RxTelegram.isKind, hk, readQuery_eq_none hl]
  | queryOfStation =>
    cases h
    refine ⟨_, _, fun _ => rfl, fun t hk => ?_, fun t hk hl => ⟨?_, onPayload_of_unread (readQuery_eq_none hl)⟩⟩
    · simp [RxTelegram.isStationQuery, RxTelegram.isKind, hk]
    · simp [RxTelegram.isStationQuery, RxTelegram.isKind, hk, readQuery_eq_none hl]
  | release => cases h; exact ⟨_, _, takesKind_of_read (fun _ => rfl) fun _ hl => onPayload_of_unread (readTag_eq_none hl)⟩
  | retrain => cases h; exact ⟨_, _, takesKind_of_read (fun _ => rfl) fun _ hl => onPayload_of_unread (readTag_eq_none hl)⟩
  | clear =>
    cases h
    exact ⟨_, _, takesKind_of_read (fun _ => rfl) fun _ hl => onPayload_of_unread (if_neg (length_ne hl))⟩
  | reset =>
    cases h
    exact ⟨_, _, takesKind_of_read (fun _ => rfl) fun _ hl => onPayload_of_unread (if_neg (length_ne hl))⟩
  | _ => cases h

theorem takeHead_of_nil {mine : RxTelegram → Bool} {act : RxTelegram → State → State} {s : State} (h : s.rxBuffer = []) :
    takeHead mine act s = s := by rw [takeHead, h]

theorem takeHead_of_other {mine : RxTelegram → Bool} {act : RxTelegram → State → State} {s : State} {t : RxTelegram}
    {rest : List RxTelegram} (h : s.rxBuffer = t :: rest) (hmine : mine t = false) : takeHead mine act s = s := by
  rw [takeHead, h]
  exact if_neg (by rw [hmine]; exact Bool.false_ne_true)

/-! ### The first byte of a payload -/

theorem foldl_word (p : List Byte) (acc : Nat) :
    p.foldl (fun w b => w * 256 + b.toNat) acc = acc * 256 ^ p.length + wordOf p := by
  induction p generalizing acc with
  | nil => simp [wordOf]
  | cons b p ih => rw [wordOf, List.foldl_cons, List.foldl_cons, ih, ih (0 * 256 + b.toNat), List.length_cons]; ring

theorem wordOf_cons (b : Byte) (p : List Byte) : wordOf (b :: p) = b.toNat * 256 ^ p.length + wordOf p := by
  rw [wordOf, List.foldl_cons, foldl_word, Nat.zero_mul, Nat.zero_add]

theorem wordOf_lt (p : List Byte) : wordOf p < 256 ^ p.length := by
  induction p with
  | nil => simp [wordOf]
  | cons b p ih =>
    have hb : (b.toNat + 1) * 256 ^ p.length ≤ 256 * 256 ^ p.length := Nat.mul_le_mul_right _ b.isLt
    rw [wordOf_cons, List.length_cons, pow_succ']
    linarith

/-- The leading byte of a payload of `n + 1` bytes, as a tag. -/
theorem leadingTag {b : Byte} {p : List Byte} {g : Tag} {n : Nat} (hn : p.length = n) (hg : b.toNat = g.val) :
    Fin.ofNat 256 (bits (wordOf (b :: p)) (8 * n + 7) (8 * n)) = g := by
  have hlt := wordOf_lt p
  have hpow : 2 ^ (8 * n) = 256 ^ p.length := by rw [hn, pow_mul]; rfl
  ext
  rw [bits_eq, hpow, wordOf_cons, Nat.mul_comm, Nat.mul_add_div (by positivity), Nat.div_eq_of_lt hlt, Nat.add_zero,
    show 8 * n + 7 + 1 - 8 * n = 8 by omega, hg, Fin.val_ofNat]
  have := g.isLt
  omega

/-- What a report's row does for a tag that is not valid (R40). -/
theorem report_unassigned {c : Instr} {k : Kind} {α : Type} {read : List Byte → Option α} {tag : α → Tag}
    {apply : α → Slot → State → State} {s : State} {source : Station} {p : List Byte} {rest : List RxTelegram} {r : α} {g : Tag}
    (hrun : exec c s = .next (takeHead (·.isKind k) (onPayload read fun r => onTag (tag r) (apply r)) (settle s)))
    (h : s.hasHead k source p rest) (hread : read p = some r) (hg : tag r = g) (hslot : s.slotOf g = none) :
    (0 < (s.tagEntry g).quarantine → exec c s = .next (s.setRxBuffer rest)) ∧
    ((s.tagEntry g).quarantine = 0 → exec c s = .next (raise .tagUnknown (s.setRxBuffer rest))) := by
  rw [hrun, takeHead_onPayload h hread, hg]
  exact ⟨fun hq => congrArg _ (onTag_of_quarantined (s := s.setRxBuffer rest) hslot hq),
    fun hq => congrArg _ (onTag_of_unassigned (s := s.setRxBuffer rest) hslot hq)⟩

/-- Settles O17: every row takes its kind only, and the reports read the tag from their first byte. -/
theorem telegramsNotActedOn : Obligations.TelegramsNotActedOn := by
  refine ⟨fun c k s hc hagenda => ?_, fun c k s source b p rest g hkind h hl hg hslot => ?_⟩
  · obtain ⟨mine, act, ht⟩ := takesKind hc
    refine ⟨fun hrx => ?_, fun t rest hrx hk => ?_, fun source p rest h hl => ?_⟩
    · rw [ht.run, settle_of_empty hagenda, takeHead_of_nil hrx]
    · rw [ht.run, settle_of_empty hagenda, takeHead_of_other hrx (ht.other t hk)]
    · obtain ⟨hmine, hact⟩ := ht.unread { kind := k, source := source, payload := p } rfl hl
      rw [ht.run, takeHead_of_hasHead h hmine, hact]
  · rcases hkind with ⟨rfl, rfl⟩ | ⟨rfl, rfl⟩ | ⟨rfl, rfl⟩
    · have hlen : (b :: p).length = 5 := by simpa [layoutHolds] using hl
      exact report_unassigned (tag := QualityReport.tag) rfl h (if_pos hlen) (leadingTag (n := 4) (by simpa using hlen) hg) hslot
    · have hlen : (b :: p).length = 3 := by simpa [layoutHolds] using hl
      exact report_unassigned (tag := RangeReport.tag) rfl h (if_pos hlen) (leadingTag (n := 2) (by simpa using hlen) hg) hslot
    · have hlen : (b :: p).length = 5 := by simpa [layoutHolds] using hl
      exact report_unassigned (tag := BufferReport.tag) rfl h (if_pos hlen) (leadingTag (n := 4) (by simpa using hlen) hg) hslot

end Sys2Proof.Machine
end

section
/-! The start of a reset sequence: the release of every claimed band (R93, R177). -/
namespace Sys2Proof.Machine

theorem exec_reset_of_hasHead {s : State} {source : Station} {rest : List RxTelegram} (h : s.hasHead .reset source [] rest) :
    exec .reset s = .next (beginSequence (s.setRxBuffer rest)) :=
  congrArg Host.Outcome.next (takeHead_onPayload h (r := ()) rfl)

theorem beginSequence_of_none {s : State} (h : s.resetSeq = none) :
    beginSequence s = endSequence (allBands.foldl sequenceRelease (s.setResetSeq (some 0))) := by
  rw [beginSequence, h]

theorem endSequence_of_left {s : State} (h : ∃ x ∈ s.txQueue, x.ofSequence = true) : endSequence s = s := by
  obtain ⟨x, hx, hseq⟩ := h
  refine if_neg fun hall => ?_
  simpa [hseq] using List.all_eq_true.mp hall.2 x hx

theorem endSequence_of_done {s : State} (hseq : s.resetSeq ≠ none) (h : ∀ x ∈ s.txQueue, x.ofSequence = false) :
    endSequence s = stationReset s := by
  refine if_pos ⟨Option.isSome_iff_ne_none.mpr hseq, List.all_eq_true.mpr fun x hx => ?_⟩
  rw [h x hx]
  rfl

/-- A station reset taken after work that leaves the pins and the profile alone is one of the state before. -/
theorem StationReset.of_keeps {l : List Field} {s t u : State} (h : StationReset t u) (hk : Keeps l s t)
    (hresetN : .resetN ∉ l) (hown : .ownStation ∉ l) (hprofile : .profile ∉ l) (hpending : .pending ∉ l) :
    StationReset s u := by
  obtain ⟨hblocks, hstation, h1, h2, h3, h4⟩ := h
  exact ⟨hblocks, hstation, h1.trans (hk.resetN_eq hresetN), h2.trans (hk.ownStation_eq hown),
    h3.trans (hk.profile_eq hprofile), h4.trans (hk.pending_eq hpending)⟩

/-! ### Removing the telegrams of several bands -/

theorem removeTelegrams_cons (p : TxTelegram → Bool) (f : TxTelegram → TxTelegram) (x : TxTelegram) (q : List TxTelegram) :
    removeTelegrams p f (x :: q) = if p x && !x.onWire then removeTelegrams p f q
      else (if p x then f x else x) :: removeTelegrams p f q := by
  unfold removeTelegrams
  cases hp : p x <;> cases hw : x.onWire <;> simp [hp, hw]

theorem removeTelegrams_append (p : TxTelegram → Bool) (f : TxTelegram → TxTelegram) (q q' : List TxTelegram) :
    removeTelegrams p f (q ++ q') = removeTelegrams p f q ++ removeTelegrams p f q' := by
  simp [removeTelegrams]

theorem removeTelegrams_of_none {p : TxTelegram → Bool} (f : TxTelegram → TxTelegram) {q : List TxTelegram}
    (h : ∀ x ∈ q, p x = false) : removeTelegrams p f q = q := by
  induction q with
  | nil => rfl
  | cons x q ih =>
    rw [removeTelegrams_cons, h x List.mem_cons_self, ih fun y hy => h y (List.mem_cons_of_mem x hy)]
    rfl

theorem removeTelegrams_length_le (p : TxTelegram → Bool) (f : TxTelegram → TxTelegram) (q : List TxTelegram) :
    (removeTelegrams p f q).length ≤ q.length := by
  rw [removeTelegrams, List.length_map]
  exact List.length_filter_le _ _

/-- Two removals one after the other are one, a marked telegram not being asked for again. -/
theorem removeTelegrams_removeTelegrams {p p' : TxTelegram → Bool} (h : ∀ x : TxTelegram, p x.markedDisowned = false)
    (q : List TxTelegram) : removeTelegrams p TxTelegram.markedDisowned (removeTelegrams p' TxTelegram.markedDisowned q) =
      removeTelegrams (fun x => p' x || p x) TxTelegram.markedDisowned q := by
  induction q with
  | nil => rfl
  | cons x q ih =>
    rw [removeTelegrams_cons p', removeTelegrams_cons (fun x => p' x || p x)]
    cases hp' : p' x with
    | false => simp [removeTelegrams_cons, ih]
    | true => cases hw : x.onWire <;> simp [removeTelegrams_cons, ih, h]

/-! ### The bands one after the other -/

/-- The BAND RELEASE of a reset sequence. -/
def sequenceTelegram (b : Band) : TxTelegram := telegram .bandRelease 15 (bandReleasePayload b) (.bandRelease b true)

theorem sequenceRelease_of_unclaimed {s : State} {b : Band} (h : (s.own b).claimed = false) : sequenceRelease s b = s :=
  if_neg (by rw [h]; exact Bool.false_ne_true)

theorem foldl_sequenceRelease_of_unclaimed {s : State} (h : ∀ b, (s.own b).claimed = false) (bs : List Band) :
    bs.foldl sequenceRelease s = s := by
  induction bs with
  | nil => rfl
  | cons b bs ih => rw [List.foldl_cons, sequenceRelease_of_unclaimed (h b), ih]

theorem sequenceRelease_of_room {s : State} {b : Band} (hc : (s.own b).claimed = true) (ha : s.acting = true)
    (hl : s.txQueue.length < 24) : sequenceRelease s b = (s.putOwn b (s.own b).leaving).setTxQueue
      (removeTelegrams (fun x => x.owner.isClaimOf b) TxTelegram.markedDisowned s.txQueue ++ [sequenceTelegram b]) := by
  have hl' := (removeTelegrams_length_le (fun x => x.owner.isClaimOf b) TxTelegram.markedDisowned s.txQueue).trans_lt hl
  have hoff := offer_room (t := sequenceTelegram b) (s := dropClaim b (s.putOwn b (s.own b).leaving)) ha hl'
  exact (if_pos hc).trans hoff

/-- The state and queue after the releases of `bs`, none of them refused. -/
structure Released (bs : List Band) (s t : State) : Prop where
  own : ∀ b, t.own b = if b ∈ bs ∧ (s.own b).claimed = true then (s.own b).leaving else s.own b
  queue : t.txQueue = removeTelegrams (fun x => bs.any fun b => (s.own b).claimed && x.owner.isClaimOf b)
      TxTelegram.markedDisowned s.txQueue ++ (bs.filter fun b => (s.own b).claimed).map sequenceTelegram
  keeps : Keeps [.claims, .txQueue] s t

/-- The releases of distinct bands, in a queue with room for all of them. -/
theorem foldl_sequenceRelease {bs : List Band} (hbs : bs.Nodup) : ∀ {s : State}, s.acting = true →
    s.txQueue.length + bs.length ≤ 24 → Released bs s (bs.foldl sequenceRelease s) := by
  induction bs with
  | nil =>
    intro s _ _
    exact ⟨fun b => by simp, by simp [removeTelegrams_of_none], Keeps.refl _ _⟩
  | cons b bs ih =>
    intro s ha hl
    obtain ⟨hb, hbs⟩ := List.nodup_cons.mp hbs
    rw [List.length_cons] at hl
    rw [List.foldl_cons]
    cases hc : (s.own b).claimed with
    | false =>
      rw [sequenceRelease_of_unclaimed hc]
      obtain ⟨hown, hqueue, hkeeps⟩ := ih hbs ha (by omega)
      refine ⟨fun b' => ?_, ?_, hkeeps⟩
      · rw [hown b']
        by_cases e : b' = b
        · subst e
          simp [hc, hb]
        · simp [e]
      · rw [hqueue]
        simp [hc]
    | true =>
      have hfirst := sequenceRelease_of_room hc ha (by omega)
      have hk : Keeps [.claims, .txQueue] s (sequenceRelease s b) := by
        rw [hfirst]
        exact ((putOwn_keeps s _ _).mono (by decide)).andThen (setTxQueue_keeps _ _) (by decide)
      have hfst : (sequenceRelease s b).txQueue = removeTelegrams (fun x => x.owner.isClaimOf b)
          TxTelegram.markedDisowned s.txQueue ++ [sequenceTelegram b] := by rw [hfirst, setTxQueue_txQueue]
      have hne : ∀ b' : Band, b' ≠ b → (sequenceRelease s b).own b' = s.own b' := fun b' e => by
        rw [hfirst, setTxQueue_own, putOwn_own_other _ _ _ (Ne.symm e)]
      have hlen := removeTelegrams_length_le (fun x => x.owner.isClaimOf b) TxTelegram.markedDisowned s.txQueue
      obtain ⟨hown, hqueue, hkeeps⟩ := ih (s := sequenceRelease s b) hbs ((hk.acting (by decide)).trans ha) (by
        rw [hfst, List.length_append, List.length_singleton]
        omega)
      have hany : ∀ x : TxTelegram, (bs.any fun b' => ((sequenceRelease s b).own b').claimed && x.owner.isClaimOf b') =
          bs.any fun b' => (s.own b').claimed && x.owner.isClaimOf b' := fun x => by
        refine Bool.eq_iff_iff.mpr ?_
        simp only [List.any_eq_true]
        exact exists_congr fun b' => and_congr_right fun hb' => by rw [hne b' fun e => hb (e ▸ hb')]
      have hfilter : (bs.filter fun b' => ((sequenceRelease s b).own b').claimed) = bs.filter fun b' => (s.own b').claimed :=
        List.filter_congr fun b' hb' => by rw [hne b' fun e => hb (e ▸ hb')]
      refine ⟨fun b' => ?_, ?_, hk.trans hkeeps⟩
      · by_cases e : b' = b
        · subst e
          rw [hown, if_neg fun h => hb h.1, hfirst, setTxQueue_own, putOwn_own_same]
          simp [hc]
        · rw [hown, hne b' e]
          simp [e]
      · simp only [hqueue, hany, hfilter, hfst, removeTelegrams_append]
        rw [removeTelegrams_removeTelegrams fun x => List.any_eq_false.mpr fun b' _ => by
            simp [TxTelegram.markedDisowned, Owner.isClaimOf],
          removeTelegrams_of_none (q := [sequenceTelegram b]) _ fun x hx => by
            rw [List.mem_singleton.mp hx]
            exact List.any_eq_false.mpr fun b' _ => by simp [sequenceTelegram, telegram, Owner.isClaimOf]]
        simp [hc]

/-- Settles O9: the release of every claimed band, and the end of a sequence with nothing left to report. -/
theorem resetCommand : Obligations.ResetCommand := by
  intro s source rest h
  have hact : ((s.setRxBuffer rest).setResetSeq (some 0)).acting = true := h.1
  have begins : Keeps [.rxBuffer, .resetSeq] s ((s.setRxBuffer rest).setResetSeq (some 0)) :=
    ((setRxBuffer_keeps s rest).mono (by decide)).andThen (setResetSeq_keeps _ _) (by decide)
  rw [exec_reset_of_hasHead h]
  refine ⟨fun hseq => ?_, fun hseq hunclaimed hq => ?_, fun hseq hclaimed hlen => ?_, fun hseq => ?_⟩
  · obtain ⟨n, hn⟩ := Option.ne_none_iff_exists'.mp hseq
    rw [beginSequence, setRxBuffer_resetSeq, hn]
  · rw [beginSequence_of_none (s := s.setRxBuffer rest) hseq,
      foldl_sequenceRelease_of_unclaimed (s := (s.setRxBuffer rest).setResetSeq (some 0)) hunclaimed,
      endSequence_of_done (s := (s.setRxBuffer rest).setResetSeq (some 0)) (Option.some_ne_none 0) hq]
    exact ⟨_, rfl, (stationReset_spec _).of_keeps begins (by decide) (by decide) (by decide) (by decide)⟩
  · obtain ⟨hown, hqueue, hkeeps⟩ := foldl_sequenceRelease (s := (s.setRxBuffer rest).setResetSeq (some 0))
      (List.nodup_finRange 6) hact (by
        have : (List.finRange 6).length = 6 := List.length_finRange
        rw [this]
        exact Nat.add_le_of_le_sub (by omega) hlen)
    rw [beginSequence_of_none (s := s.setRxBuffer rest) hseq, endSequence_of_left]
    · exact ⟨_, rfl, hkeeps.resetSeq_eq (by decide), hkeeps.rxBuffer_eq (by decide),
        fun b => (hown b).trans (by simp [OwnClaim.leaving]), hqueue, (begins.mono (by decide)).andThen hkeeps (by decide)⟩
    · obtain ⟨b, hb⟩ := hclaimed
      refine ⟨sequenceTelegram b, ?_, rfl⟩
      rw [show allBands = List.finRange 6 from rfl, hqueue]
      exact List.mem_append_right _ (List.mem_map_of_mem (List.mem_filter.mpr ⟨List.mem_finRange b, hb⟩))
  · intro released w
    rw [beginSequence_of_none (s := s.setRxBuffer rest) hseq]
    have hw : Keeps offering ((s.setRxBuffer rest).setResetSeq (some 0)) w := Keeps.foldl sequenceRelease_keeps _ _
    refine ⟨fun hleft => congrArg _ (endSequence_of_left hleft), fun hdone => ⟨stationReset w, ?_, ?_⟩⟩
    · exact congrArg _ (endSequence_of_done (fun e => Option.some_ne_none 0 ((hw.resetSeq_eq (by decide)).symm.trans e)) hdone)
    · exact (stationReset_spec w).of_keeps ((begins.mono (l' := .rxBuffer :: .resetSeq :: offering) (by decide)).trans
        (hw.mono (by decide))) (by decide) (by decide) (by decide) (by decide)

end Sys2Proof.Machine
end

section
/-! The two QUERY rows and the fields of a STATUS (R162 to R165). -/
namespace Sys2Proof.Machine

/-! ### Reading a payload piece by piece -/

theorem flagBit_eq (v : Bool) (lo : Nat) : flagBit v lo = (if v then 1 else 0) * 2 ^ lo := by
  cases v <;> simp [flagBit, Nat.shiftLeft_eq]

theorem wordAt_first (n w : Nat) (p : List Byte) : wordAt (bytesOf n w ++ p) 0 n = w % 256 ^ n := by
  rw [wordAt, List.drop_zero, List.take_left' (bytesOf_length n w), wordOf_bytesOf]

theorem wordAt_only (n w : Nat) : wordAt (bytesOf n w) 0 n = w % 256 ^ n := by
  rw [← List.append_nil (bytesOf n w), wordAt_first]

theorem wordAt_skip {m n : Nat} (w k : Nat) (p : List Byte) (h : m ≤ n) :
    wordAt (bytesOf m w ++ p) n k = wordAt p (n - m) k := by
  rw [wordAt, List.drop_append, List.drop_of_length_le (by simpa using h), List.nil_append, bytesOf_length, wordAt]

theorem qWord_some (q : Vector Quality 6) : qWord (some q) = q[0].val * 16 ^ 5 + q[1].val * 16 ^ 4 + q[2].val * 16 ^ 3 +
    q[3].val * 16 ^ 2 + q[4].val * 16 + q[5].val := by
  have hword : qWord (some q) =
      (((((0 * 16 + q[0].val) * 16 + q[1].val) * 16 + q[2].val) * 16 + q[3].val) * 16 + q[4].val) * 16 + q[5].val := rfl
  omega

theorem drop_flatMap {α : Type} {g : α → List Byte} {m : Nat} (hg : ∀ a, (g a).length = m) {bs : List α} {j : Nat}
    (hj : j < bs.length) : (bs.flatMap g).drop (m * j) = g bs[j] ++ (bs.drop (j + 1)).flatMap g := by
  induction bs generalizing j with
  | nil => exact absurd hj (Nat.not_lt_zero j)
  | cons a bs ih =>
    cases j with
    | zero => simp
    | succ j =>
      rw [List.flatMap_cons, List.drop_append, hg, Nat.mul_succ, List.drop_of_length_le (by rw [hg]; omega),
        Nat.add_sub_cancel, ih (by simpa using hj)]
      rfl

/-- Fields of whole bytes one after the other, each a width and a value. -/
def packed (fields : List (Nat × Nat)) : List Byte := fields.flatMap fun x => bytesOf x.1 x.2

theorem packed_length (fields : List (Nat × Nat)) : (packed fields).length = (fields.map Prod.fst).sum := by
  simp [packed, List.length_flatMap]

/-- The `j`-th field stands behind those before it. -/
theorem wordAt_packed {fields : List (Nat × Nat)} {widths : List Nat} (hwidths : fields.map Prod.fst = widths) {j n k w : Nat}
    (h : fields[j]? = some (k, w)) (hn : (widths.take j).sum = n) : wordAt (packed fields) n k = w % 256 ^ k := by
  obtain ⟨hj, hget⟩ := List.getElem?_eq_some_iff.mp h
  have hsplit : packed fields = packed (fields.take j) ++ (bytesOf k w ++ packed (fields.drop (j + 1))) := by
    have hfields : fields = fields.take j ++ (k, w) :: fields.drop (j + 1) := by
      rw [← hget, List.getElem_cons_drop, List.take_append_drop]
    refine (congrArg packed hfields).trans ?_
    rw [packed, List.flatMap_append, List.flatMap_cons]
    rfl
  have hlen : (packed (fields.take j)).length = n := by rw [packed_length, List.map_take, hwidths, hn]
  rw [wordAt, hsplit, List.drop_left' hlen, List.take_left' (bytesOf_length k w), wordOf_bytesOf]

/-- The fields of STATUS form 0. -/
def statusContextFields (t : Tag) (i : Slot) (c : Context) : List (Nat × Nat) :=
  [(1, 0), (1, t.val), (1, 1), (1, i.val),
   (1, field c.life.code 3 5 + flagBit (c.kind == .nomadic) 4 + flagBit (c.reach == .far) 3 + field c.cls.val 2 1 +
     flagBit c.retrain 0),
   (3, (c.identity.map BitVec.toNat).getD 0), (2, field c.ta 11 0 + field c.hold 3 11 + flagBit c.q.isSome 14),
   (3, qWord c.q), (1, field c.qWide.val 4 4 + field c.attachQuality.val 4 0),
   (2, field c.admitted.val 12 4 + field c.rangeRepeat 4 0), (2, field c.age 12 4 + field (c.sound.getD 15) 4 0),
   (2, field c.silence 12 4), (2, field c.dormancy 12 4), (4, c.backlog.dl), (4, c.backlog.ul), (3, c.pending.dl),
   (3, c.pending.ul), (3, c.average.dl), (3, c.average.ul)]

/-- Their widths in bytes. -/
def statusContextWidths : List Nat := [1, 1, 1, 1, 1, 3, 2, 3, 1, 2, 2, 2, 2, 4, 4, 3, 3, 3, 3]

theorem statusContextPayload_eq (t : Tag) (i : Slot) (c : Context) :
    statusContextPayload t i c = packed (statusContextFields t i c) := by
  delta statusContextPayload packed statusContextFields
  simp only [List.flatMap_cons, List.flatMap_nil, List.append_assoc, List.append_nil]

/-- A context's counts fit the fields of its STATUS. -/
theorem statusContext_fields {p : Profile} {c : Context} (g : Tag) (i : Slot) (hp : p.inRange) (hc : c.inRange p)
    (hpending : ∀ d, c.pending.at d < 2 ^ 24) :
    let status := statusContextPayload g i c
    let bit := fun v : Bool => if v then 1 else 0
    status.length = 42 ∧ wordAt status 0 1 = 0 ∧ wordAt status 1 1 = g.val ∧ wordAt status 2 1 = 1 ∧
    wordAt status 3 1 = i.val ∧
    wordAt status 4 1 = c.life.code * 32 + bit (c.kind == .nomadic) * 16 + bit (c.reach == .far) * 8 + c.cls.val * 2 +
      bit c.retrain ∧
    (∀ id, c.identity = some id → wordAt status 5 3 = id.toNat) ∧
    wordAt status 8 2 = bit c.q.isSome * 2 ^ 14 + c.hold * 2 ^ 11 + c.ta ∧
    (∀ q, c.q = some q → wordAt status 10 3 = q[0].val * 16 ^ 5 + q[1].val * 16 ^ 4 + q[2].val * 16 ^ 3 + q[3].val * 16 ^ 2 +
      q[4].val * 16 + q[5].val) ∧
    (c.q = none → wordAt status 10 3 = 0) ∧ wordAt status 13 1 = c.qWide.val * 16 + c.attachQuality.val ∧
    wordAt status 14 2 = c.admitted.val * 16 + c.rangeRepeat ∧ wordAt status 16 2 = c.age * 16 + c.sound.getD 15 ∧
    wordAt status 18 2 = c.silence * 16 ∧ wordAt status 20 2 = c.dormancy * 16 ∧
    wordAt status 22 4 = c.backlog.dl ∧ wordAt status 26 4 = c.backlog.ul ∧ wordAt status 30 3 = c.pending.dl ∧
    wordAt status 33 3 = c.pending.ul ∧ wordAt status 36 3 = c.average.dl ∧ wordAt status 39 3 = c.average.ul := by
  intro status bit
  obtain ⟨-, -, -, -, -, -, -, hlimit, -, -, -⟩ := hp
  obtain ⟨haverage, hbacklog, hta, hage, hsound, hsilence, hdormancy, hhold, hrepeat⟩ := hc
  have hstatus : status = packed (statusContextFields g i c) := statusContextPayload_eq g i c
  clear_value status
  have hlife : c.life.code < 8 := by cases c.life <;> decide
  have hcls := c.cls.isLt
  have hbit : ∀ v, bit v < 2 := fun v => by cases v <;> decide
  have b1 := hbit (c.kind == .nomadic)
  have b2 := hbit (c.reach == .far)
  have b3 := hbit c.retrain
  have b4 := hbit c.q.isSome
  have a1 : c.average.dl ≤ 16777215 := haverage .dl
  have a2 : c.average.ul ≤ 16777215 := haverage .ul
  have k1 : c.backlog.dl ≤ 134217727 := hbacklog .dl
  have k2 : c.backlog.ul ≤ 134217727 := hbacklog .ul
  have p1 : c.pending.dl < 2 ^ 24 := hpending .dl
  have p2 : c.pending.ul < 2 ^ 24 := hpending .ul
  have hs : c.sound.getD 15 < 16 := by
    cases h : c.sound with
    | none => decide
    | some n => exact (hsound n h).trans_lt (by decide)
  have hg := g.isLt
  have hi := i.isLt
  have hw := c.qWide.isLt
  have hq := c.attachQuality.isLt
  have hadm := c.admitted.isLt
  have hwidths : (statusContextFields g i c).map Prod.fst = statusContextWidths := rfl
  have read : ∀ {j n k w : Nat}, (statusContextFields g i c)[j]? = some (k, w) →
      (statusContextWidths.take j).sum = n → wordAt status n k = w % 256 ^ k := fun h hn => by
    rw [hstatus]
    exact wordAt_packed hwidths h hn
  simp only [field_eq, flagBit_eq, statusContextFields] at read
  refine ⟨by rw [hstatus, packed_length, hwidths]; rfl, read (j := 0) rfl rfl, (read (j := 1) rfl rfl).trans (by omega),
    read (j := 2) rfl rfl, (read (j := 3) rfl rfl).trans (by omega), (read (j := 4) rfl rfl).trans ?_, fun id hid => ?_,
    (read (j := 6) rfl rfl).trans ?_, fun q hq => ?_, fun hq => ?_, (read (j := 8) rfl rfl).trans (by omega),
    (read (j := 9) rfl rfl).trans (by omega), (read (j := 10) rfl rfl).trans (by omega),
    (read (j := 11) rfl rfl).trans (by omega), (read (j := 12) rfl rfl).trans (by omega),
    (read (j := 13) rfl rfl).trans (by omega), (read (j := 14) rfl rfl).trans (by omega),
    (read (j := 15) rfl rfl).trans (by omega), (read (j := 16) rfl rfl).trans (by omega),
    (read (j := 17) rfl rfl).trans (by omega), (read (j := 18) rfl rfl).trans (by omega)⟩
  · show (_ % 2 ^ 3 * 2 ^ 5 + bit _ * 2 ^ 4 + bit _ * 2 ^ 3 + _ % 2 ^ 2 * 2 ^ 1 + bit _ * 2 ^ 0) % 256 ^ 1 = _
    omega
  · have := id.isLt
    rw [read (j := 5) (n := 5) rfl rfl, hid, Option.map_some, Option.getD_some]
    omega
  · show (_ % 2 ^ 11 * 2 ^ 0 + _ % 2 ^ 3 * 2 ^ 11 + bit _ * 2 ^ 14) % 256 ^ 2 = _
    omega
  · have h0 := q[0].isLt
    have h1 := q[1].isLt
    have h2 := q[2].isLt
    have h3 := q[3].isLt
    have h4 := q[4].isLt
    have h5 := q[5].isLt
    rw [read (j := 7) (n := 10) rfl rfl, hq, qWord_some]
    omega
  · rw [read (j := 7) (n := 10) rfl rfl, hq]
    rfl

/-! ### STATUS of the station -/

/-- What stands before the band groups of STATUS form 1. -/
def statusStationHead (s : State) : List Byte :=
  bytesOf 1 1 ++ (bytesOf 1 (field s.station.code 3 0 + flagBit s.resetSeq.isSome 7) ++ (bytesOf 2 s.flags.toNat ++
    (bytesOf 1 s.cause.toNat ++ (bytesOf 1 s.contextsInUse ++ (bytesOf 2 (field s.interval.val 12 0 + flagBit s.synced 15) ++
      (bytesOf 1 s.farDemand ++ bytesOf 1 s.spacing))))))

/-- The group of a band in STATUS form 1. -/
def State.bandGroup (s : State) (b : Band) : List Byte := Machine.bandGroup s.freeCount b (s.own b) (s.neighbour b)

theorem statusStationPayload_eq (s : State) :
    statusStationPayload s = statusStationHead s ++ allBands.flatMap s.bandGroup := by
  simp only [statusStationPayload, statusStationHead, List.append_assoc]
  rfl

theorem bandGroup_length (s : State) (b : Band) : (s.bandGroup b).length = 6 := by
  simp [State.bandGroup, Machine.bandGroup]

theorem statusStationHead_length (s : State) : (statusStationHead s).length = 10 := by
  simp [statusStationHead]

theorem wordAt_append {p q : List Byte} {n k : Nat} (h : n + k ≤ p.length) : wordAt (p ++ q) n k = wordAt p n k := by
  rw [wordAt, wordAt, List.drop_append_of_le_length (by omega), List.take_append_of_le_length (by simp; omega)]

/-- The fields of a band group, in its place. -/
theorem wordAt_bandGroup (s : State) (b : Band) {n k : Nat} (h : n + k ≤ 6) :
    wordAt (statusStationPayload s) (10 + n + 6 * b.val) k = wordAt (s.bandGroup b) n k := by
  have hdrop : (statusStationPayload s).drop (10 + n + 6 * b.val) =
      ((allBands.flatMap s.bandGroup).drop (6 * b.val)).drop n := by
    rw [statusStationPayload_eq, List.drop_append, List.drop_of_length_le (by rw [statusStationHead_length]; omega),
      List.nil_append, statusStationHead_length, List.drop_drop]
    congr 1
    omega
  have hb : b.val < (List.finRange 6).length := by simp
  rw [wordAt, hdrop, allBands, drop_flatMap (bandGroup_length s) hb, List.getElem_finRange,
    show Fin.cast _ (⟨b.val, hb⟩ : Fin _) = b from rfl]
  exact wordAt_append (by rw [bandGroup_length]; exact h)

theorem contextsInUse_le (s : State) : s.contextsInUse ≤ 96 :=
  (List.length_filter_le _ _).trans (le_of_eq List.length_finRange)

theorem ofNat_byte_eq {v : Nat} {b : Byte} (h : v % 256 = b.toNat) : BitVec.ofNat 8 v = b :=
  BitVec.eq_of_toNat_eq (by rw [BitVec.toNat_ofNat]; exact h)

/-- The counts of the station fit the fields of its STATUS. -/
theorem statusStation_fields {s : State} (h : RangeLaw s) :
    let status := statusStationPayload s
    status.length = 46 ∧ status.take 5 = [1#8, BitVec.ofNat 8 (s.station.code + if s.resetSeq.isSome then 128 else 0),
      (s.flags >>> 8).setWidth 8, s.flags.setWidth 8, s.cause.setWidth 8] ∧
    wordAt status 5 1 = s.contextsInUse ∧ wordAt status 6 2 = (if s.synced then 2 ^ 15 else 0) + s.interval.val ∧
    wordAt status 8 1 = s.farDemand ∧ wordAt status 9 1 = s.spacing ∧
    ∀ b : Band,
      wordAt status (10 + 6 * b.val) 2 / 2 ^ 13 = (s.own b).state.code * 2 + (if (s.own b).announced.isSome then 1 else 0) ∧
      (∀ a, (s.own b).announced = some a → wordAt status (10 + 6 * b.val) 2 % 2 ^ 13 = a.val) ∧
      (s.neighbour b = none → wordAt status (12 + 6 * b.val) 1 < 128) ∧
      ∀ e, s.neighbour b = some e → wordAt status (12 + 6 * b.val) 1 = 128 + e.station.val ∧
        wordAt status (13 + 6 * b.val) 2 = e.interval.val ∧ wordAt status (15 + 6 * b.val) 1 = e.age := by
  intro status
  obtain ⟨-, -, -, -, hentries, hdemand, hspacing, -, -⟩ := h
  have hin : ∀ {n k}, n + k ≤ 10 → wordAt status n k = wordAt (statusStationHead s) n k := fun {n k} h => by
    rw [show status = _ from statusStationPayload_eq s]
    exact wordAt_append (by rw [statusStationHead_length]; exact h)
  have huse := contextsInUse_le s
  have hinterval := s.interval.isLt
  refine ⟨?_, ?_, ?_, ?_, ?_, ?_, fun b => ?_⟩
  · rw [show status = _ from statusStationPayload_eq s, List.length_append, statusStationHead_length, List.length_flatMap]
    simp only [bandGroup_length]
    rfl
  · have hstation : s.station.code < 8 := by cases s.station <;> decide
    rw [show status = _ from statusStationPayload_eq s]
    show [BitVec.ofNat 8 _, BitVec.ofNat 8 _, BitVec.ofNat 8 _, BitVec.ofNat 8 _, BitVec.ofNat 8 _] = _
    have hflag : flagBit s.resetSeq.isSome 7 = if s.resetSeq.isSome then 128 else 0 := rfl
    have hcode : field s.station.code 3 0 = s.station.code := by
      rw [field_eq]
      omega
    simp only [Nat.shiftRight_eq_div_pow, hflag, hcode, List.cons.injEq, and_true]
    refine ⟨trivial, ?_, ofNat_byte_eq ?_, ofNat_byte_eq ?_, ofNat_byte_eq ?_⟩
    · simp
    · rw [BitVec.toNat_setWidth, BitVec.toNat_ushiftRight, Nat.shiftRight_eq_div_pow]
    · rw [BitVec.toNat_setWidth, Nat.mul_zero, Nat.pow_zero, Nat.div_one]
    · rw [BitVec.toNat_setWidth, Nat.mul_zero, Nat.pow_zero, Nat.div_one]
  · rw [hin (by decide)]
    simp only [statusStationHead, wordAt_skip, Nat.reduceLeDiff, Nat.reduceSub, wordAt_first]
    omega
  · rw [hin (by decide)]
    simp only [statusStationHead, wordAt_skip, Nat.reduceLeDiff, Nat.reduceSub, wordAt_first, field_eq, flagBit_eq]
    split <;> omega
  · rw [hin (by decide)]
    simp only [statusStationHead, wordAt_skip, Nat.reduceLeDiff, Nat.reduceSub, wordAt_first]
    omega
  · rw [hin (by decide)]
    simp only [statusStationHead, wordAt_skip, Nat.reduceLeDiff, Nat.reduceSub, wordAt_only]
    omega
  · have w0 := wordAt_bandGroup s b (n := 0) (k := 2) (by decide)
    have w2 := wordAt_bandGroup s b (n := 2) (k := 1) (by decide)
    have w3 := wordAt_bandGroup s b (n := 3) (k := 2) (by decide)
    have w5 := wordAt_bandGroup s b (n := 5) (k := 1) (by decide)
    simp only [State.bandGroup, Machine.bandGroup, List.append_assoc, wordAt_skip, Nat.reduceLeDiff, Nat.reduceSub,
      wordAt_first, wordAt_only, field_eq, flagBit_eq, Nat.reduceAdd, Nat.le_refl, Nat.sub_self] at w0 w2 w3 w5
    have hcode : (s.own b).state.code < 4 := by cases (s.own b).state <;> decide
    refine ⟨?_, fun a ha => ?_, fun he => ?_, fun e he => ⟨?_, ?_, ?_⟩⟩
    · rw [w0]
      split <;> omega
    · have := a.isLt
      rw [w0, ha]
      simp
      omega
    · rw [w2, he]
      simp
      omega
    · have := e.station.isLt
      rw [w2, he]
      simp
      omega
    · have := e.interval.isLt
      rw [w3, he]
      simp
      omega
    · have := hentries b e he
      rw [w5, he]
      simp
      omega

/-! ### The two rows -/

theorem readQuery_byTag (g : Tag) : readQuery [0#8, BitVec.ofNat 8 g.val] = some (.byTag g) := by
  have hg := g.isLt
  have hword : wordOf [0#8, BitVec.ofNat 8 g.val] = g.val := by
    simp [wordOf]
  have hsel : bits g.val 15 8 = 0 := by
    rw [bits_eq]
    omega
  have htag : Fin.ofNat 256 (bits g.val 7 0) = g := by
    ext
    rw [bits_eq, Fin.val_ofNat]
    omega
  rw [readQuery, if_pos (show [0#8, BitVec.ofNat 8 g.val].length = 2 from rfl), hword]
  simp only [hsel, htag]

theorem readQuery_ofStation (x : Byte) : readQuery [1#8, x] = some .ofStation := by
  have hx := x.isLt
  have hsel : bits (wordOf [1#8, x]) 15 8 = 1 := by
    rw [bits_eq]
    simp [wordOf]
    omega
  rw [readQuery, if_pos (show [1#8, x].length = 2 from rfl)]
  simp only [hsel]

theorem exec_queryByTag_of_tag {s : State} {source : Station} {g : Tag} {rest : List RxTelegram}
    (h : s.hasHead .query source [0#8, BitVec.ofNat 8 g.val] rest) :
    exec .queryByTag s = .next (answerTag g (settleDeadlines (settleCloses (s.setRxBuffer rest)))) := by
  have hmine : RxTelegram.isTagQuery { kind := .query, source := source, payload := [0#8, BitVec.ofNat 8 g.val] } = true := by
    rw [RxTelegram.isTagQuery, readQuery_byTag]
    rfl
  have hanswer := onPayload_of_read (act := answer) (s := s.setRxBuffer rest)
    (t := { kind := .query, source := source, payload := _ }) (readQuery_byTag g)
  exact congrArg Host.Outcome.next ((takeHead_of_hasHead h hmine).trans hanswer)

theorem exec_queryOfStation_of_station {s : State} {source : Station} {x : Byte} {rest : List RxTelegram}
    (h : s.hasHead .query source [1#8, x] rest) :
    exec .queryOfStation s = .next (answerStation (settleDeadlines (settleCloses (s.setRxBuffer rest)))) := by
  have hmine : RxTelegram.isStationQuery { kind := .query, source := source, payload := [1#8, x] } = true := by
    rw [RxTelegram.isStationQuery, readQuery_ofStation]
    rfl
  have hanswer := onPayload_of_read (act := answer) (s := s.setRxBuffer rest)
    (t := { kind := .query, source := source, payload := _ }) (readQuery_ofStation x)
  exact congrArg Host.Outcome.next ((takeHead_of_hasHead h hmine).trans hanswer)

/-- A row whose telegram is not at the head changes nothing when nothing is left of the latest event. -/
theorem takeHead_of_not_mine {mine : RxTelegram → Bool} {act : RxTelegram → State → State} {s : State} {k : Kind}
    {source : Station} {p : List Byte} {rest : List RxTelegram} (h : s.hasHead k source p rest)
    (hmine : mine { kind := k, source := source, payload := p } = false) : takeHead mine act (settle s) = s := by
  obtain ⟨-, hagenda, hrx⟩ := h
  rw [settle_of_empty hagenda, takeHead_of_other hrx hmine]

/-- Settles O32: the two rows, and the fields of both forms of STATUS. -/
theorem queriesAnswered : Obligations.QueriesAnswered := by
  refine ⟨fun s source g x rest => ?_, fun p c g i hp hc hpending => statusContext_fields g i hp hc hpending,
    fun s hs => statusStation_fields hs⟩
  intro u
  have hu : Keeps [.contexts, .records, .openIntervals, .register, .flags, .txQueue, .closesDue, .deadlinesDue]
      (s.setRxBuffer rest) u := ((settleCloses_keeps _).mono (by decide)).andThen (settleDeadlines_keeps _) (by decide)
  have hmanagement : u.profile.management = s.profile.management := congrArg Profile.management (hu.profile_eq (by decide))
  refine ⟨fun hrest => ?_, fun h => ⟨fun i hi => ?_, fun hnone => ?_, ?_⟩, fun h => ⟨?_, ?_⟩⟩
  · have hagenda : (s.setRxBuffer rest).agenda = [] := hrest.1
    have hall := settleAll_of_rested (s := s.setRxBuffer rest) hrest
    rwa [settleAll, settle_of_empty hagenda] at hall
  · rw [exec_queryByTag_of_tag h, answerTag, show (settleDeadlines _).slotOf g = some i from hi]
    exact congrArg (fun m => Host.Outcome.next (offer (telegram .status m (statusContextPayload g i (u.ctx i)) .unreported) u))
      hmanagement
  · rw [exec_queryByTag_of_tag h, answerTag, show (settleDeadlines _).slotOf g = none from hnone, ← hmanagement]
    have hpayload : statusAbsentPayload g = [0#8, BitVec.ofNat 8 g.val, 0#8] := rfl
    rw [← hpayload]
    rfl
  · exact congrArg Host.Outcome.next (takeHead_of_not_mine h (by
      rw [RxTelegram.isStationQuery, readQuery_byTag]
      rfl))
  · rw [exec_queryOfStation_of_station h, ← hmanagement, ← show u.freeCount = s.freeCount from hu.freeCount_eq (by decide)]
    rfl
  · exact congrArg Host.Outcome.next (takeHead_of_not_mine h (by
      rw [RxTelegram.isTagQuery, readQuery_ofStation]
      rfl))


end Sys2Proof.Machine
end

section
/-! Frames: their cells, their check, and what reading them gives (R151). -/
namespace Sys2Proof.Machine

/-! ### Fields of cells -/

/-- The number a list of cells writes, most significant cell first. -/
def cellsValue (cells : List Bool) : Nat := cells.foldl (fun v c => 2 * v + c.toNat) 0

theorem foldl_cells (cells : List Bool) (acc : Nat) :
    cells.foldl (fun v c => 2 * v + c.toNat) acc = acc * 2 ^ cells.length + cellsValue cells := by
  induction cells generalizing acc with
  | nil => simp [cellsValue]
  | cons c cells ih => rw [cellsValue, List.foldl_cons, List.foldl_cons, ih, ih (2 * 0 + c.toNat), List.length_cons]; ring

theorem cellsValue_cons (c : Bool) (cells : List Bool) :
    cellsValue (c :: cells) = 2 ^ cells.length * c.toNat + cellsValue cells := by
  rw [cellsValue, List.foldl_cons, foldl_cells]
  ring

theorem cellsValue_lt (cells : List Bool) : cellsValue cells < 2 ^ cells.length := by
  induction cells with
  | nil => decide
  | cons c cells ih =>
    have hc : c.toNat ≤ 1 := Bool.toNat_le c
    rw [cellsValue_cons, List.length_cons, pow_succ]
    nlinarith

@[simp] theorem fieldCells_length (n v : Nat) : (fieldCells n v).length = n := by
  induction n with
  | zero => rfl
  | succ n ih => rw [fieldCells, List.length_cons, ih]

theorem fieldCells_eq_map (n v : Nat) : fieldCells n v = (List.range n).map fun i => v.testBit (n - 1 - i) := by
  induction n with
  | zero => rfl
  | succ n ih =>
    rw [fieldCells, ih, List.range_succ_eq_map, List.map_cons, List.map_map, Nat.sub_zero, Nat.add_sub_cancel]
    exact congrArg _ (List.map_congr_left fun i _ => by rw [Function.comp, Nat.succ_eq_add_one, Nat.sub_sub, Nat.add_comm 1])

/-- The cells of a field are those of its low bits. -/
theorem fieldCells_congr {n v w : Nat} (h : ∀ i < n, v.testBit i = w.testBit i) : fieldCells n v = fieldCells n w := by
  rw [fieldCells_eq_map, fieldCells_eq_map]
  exact List.map_congr_left fun i hi => h _ (by have := List.mem_range.mp hi; omega)

theorem fieldCells_cellsValue {n : Nat} {cells : List Bool} (h : cells.length = n) : fieldCells n (cellsValue cells) = cells := by
  subst h
  induction cells with
  | nil => rfl
  | cons c cells ih =>
    have hbits := Nat.testBit_two_pow_mul_add c.toNat (cellsValue_lt cells)
    have hlow : fieldCells cells.length (2 ^ cells.length * c.toNat + cellsValue cells) = cells :=
      (fieldCells_congr fun i hi => by rw [hbits, if_pos hi]).trans ih
    rw [List.length_cons, fieldCells, cellsValue_cons, hbits, if_neg (Nat.lt_irrefl _), Nat.sub_self, hlow]
    cases c <;> rfl

theorem cellsValue_fieldCells {n v : Nat} (h : v < 2 ^ n) : cellsValue (fieldCells n v) = v := by
  have hlt := cellsValue_lt (fieldCells n v)
  rw [fieldCells_length] at hlt
  refine Nat.eq_of_testBit_eq fun i => ?_
  by_cases hi : i < n
  · have hcells := fieldCells_cellsValue (fieldCells_length n v)
    rw [fieldCells_eq_map, fieldCells_eq_map n v] at hcells
    have hbit := List.map_inj_left.mp hcells (n - 1 - i) (List.mem_range.mpr (by omega))
    rwa [← fieldCells_eq_map, show n - 1 - (n - 1 - i) = i by omega] at hbit
  · have hpow : 2 ^ n ≤ 2 ^ i := Nat.pow_le_pow_right (by decide) (Nat.le_of_not_lt hi)
    rw [Nat.testBit_lt_two_pow (hlt.trans_le hpow), Nat.testBit_lt_two_pow (h.trans_le hpow)]

/-! ### Reading fields and bytes -/

theorem readField_append {n : Nat} {cells : List Bool} (h : cells.length = n) (acc : Nat) (rest : List Bool) :
    readField n acc (cells ++ rest) = some (acc * 2 ^ n + cellsValue cells, rest) := by
  subst h
  induction cells generalizing acc with
  | nil => simp [readField, cellsValue]
  | cons c cells ih =>
    rw [List.cons_append, List.length_cons, readField, ih, cellsValue_cons]
    ring_nf

theorem readField_fieldCells {n v : Nat} (h : v < 2 ^ n) (rest : List Bool) :
    readField n 0 (fieldCells n v ++ rest) = some (v, rest) := by
  rw [readField_append (fieldCells_length n v), cellsValue_fieldCells h, Nat.zero_mul, Nat.zero_add]

theorem readField_eq_some {n acc v : Nat} {cells rest : List Bool} (h : readField n acc cells = some (v, rest)) :
    ∃ taken, taken.length = n ∧ cells = taken ++ rest ∧ v = acc * 2 ^ n + cellsValue taken := by
  induction n generalizing acc cells with
  | zero =>
    cases h
    exact ⟨[], rfl, rfl, by simp [cellsValue]⟩
  | succ n ih =>
    cases cells with
    | nil => cases h
    | cons c cells =>
      rw [readField] at h
      obtain ⟨taken, hlen, rfl, rfl⟩ := ih h
      refine ⟨c :: taken, by rw [List.length_cons, hlen], rfl, ?_⟩
      rw [cellsValue_cons, hlen]
      ring

/-- A field that was read is the field of its value. -/
theorem fieldCells_of_read {n v : Nat} {cells rest : List Bool} (h : readField n 0 cells = some (v, rest)) :
    v < 2 ^ n ∧ cells = fieldCells n v ++ rest := by
  obtain ⟨taken, hlen, rfl, rfl⟩ := readField_eq_some h
  rw [Nat.zero_mul, Nat.zero_add, fieldCells_cellsValue hlen]
  exact ⟨hlen ▸ cellsValue_lt taken, rfl⟩

/-- The cells of a payload. -/
def payloadCells (p : List Byte) : List Bool := p.flatMap fun b => fieldCells 8 b.toNat

theorem payloadCells_cons (b : Byte) (p : List Byte) : payloadCells (b :: p) = fieldCells 8 b.toNat ++ payloadCells p := rfl

theorem payloadCells_length (p : List Byte) : (payloadCells p).length = 8 * p.length := by
  simp [payloadCells, Nat.mul_comm]

theorem readBytes_payloadCells (p : List Byte) (rest : List Bool) :
    readBytes p.length (payloadCells p ++ rest) = some (p, rest) := by
  induction p with
  | nil => rfl
  | cons b p ih =>
    have hfirst := readField_fieldCells (n := 8) b.isLt (payloadCells p ++ rest)
    rw [payloadCells_cons, List.append_assoc, List.length_cons, readBytes, hfirst]
    dsimp only
    rw [ih, BitVec.ofNat_toNat, BitVec.setWidth_eq]

theorem payloadCells_of_read {n : Nat} {cells rest : List Bool} {p : List Byte} (h : readBytes n cells = some (p, rest)) :
    p.length = n ∧ cells = payloadCells p ++ rest := by
  induction n generalizing cells p with
  | zero =>
    cases h
    exact ⟨rfl, rfl⟩
  | succ n ih =>
    rw [readBytes] at h
    split at h
    · cases h
    next b r1 hb =>
    split at h
    · cases h
    next bs r2 hbs =>
    cases h
    obtain ⟨hlt, rfl⟩ := fieldCells_of_read hb
    obtain ⟨rfl, rfl⟩ := ih hbs
    refine ⟨rfl, ?_⟩
    rw [payloadCells_cons, List.append_assoc, BitVec.toNat_ofNat, Nat.mod_eq_of_lt hlt]

/-! ### Frames -/

theorem Frame.body_eq (f : Frame) : f.body = fieldCells 5 f.code ++ (fieldCells 4 f.source.val ++
    (fieldCells 4 f.dest.val ++ (fieldCells 7 f.payload.length ++ payloadCells f.payload))) := by
  simp only [Frame.body, payloadCells, List.append_assoc]

theorem Frame.body_length (f : Frame) : f.body.length = 20 + 8 * f.payload.length := by
  simp only [Frame.body_eq, List.length_append, fieldCells_length, payloadCells_length]
  omega

/-- What a receiver makes of a frame's body with sixteen check cells behind it. -/
theorem readFrame_of_body {f : Frame} (hcode : f.code < 32) (hlen : f.payload.length ≤ 64) {check : List Bool}
    (hcheck : check.length = 16) (tail : List Bool) : readFrame (false :: (f.body ++ (check ++ tail))) =
      if check = fieldCells 16 (crc16 f.body).toNat ∧ tail.head? = some false then some f else none := by
  have h1 := readField_fieldCells (n := 5) hcode (fieldCells 4 f.source.val ++ (fieldCells 4 f.dest.val ++
    (fieldCells 7 f.payload.length ++ (payloadCells f.payload ++ (check ++ tail)))))
  have h2 := readField_fieldCells (n := 4) f.source.isLt (fieldCells 4 f.dest.val ++
    (fieldCells 7 f.payload.length ++ (payloadCells f.payload ++ (check ++ tail))))
  have h3 := readField_fieldCells (n := 4) f.dest.isLt
    (fieldCells 7 f.payload.length ++ (payloadCells f.payload ++ (check ++ tail)))
  have h4 := readField_fieldCells (n := 7) (show f.payload.length < 2 ^ 7 by omega)
    (payloadCells f.payload ++ (check ++ tail))
  have h5 := readBytes_payloadCells f.payload (check ++ tail)
  have h6 := readField_append hcheck 0 tail
  have hbody : f.body ++ (check ++ tail) = fieldCells 5 f.code ++ (fieldCells 4 f.source.val ++ (fieldCells 4 f.dest.val ++
      (fieldCells 7 f.payload.length ++ (payloadCells f.payload ++ (check ++ tail))))) := by
    simp only [Frame.body_eq, List.append_assoc]
  have htake : (f.body ++ (check ++ tail)).take (20 + 8 * f.payload.length) = f.body := List.take_left' f.body_length
  have hvalue : cellsValue check = (crc16 f.body).toNat ↔ check = fieldCells 16 (crc16 f.body).toNat :=
    ⟨fun h => by rw [← h, fieldCells_cellsValue hcheck], fun h => by
      rw [h, cellsValue_fieldCells (crc16 f.body).isLt]⟩
  have hsame : Frame.mk f.code (Fin.ofNat 16 f.source.val) (Fin.ofNat 16 f.dest.val) f.payload = f := by simp
  rw [readFrame, hbody, h1]
  dsimp only
  rw [h2]
  dsimp only
  rw [h3]
  dsimp only
  rw [h4]
  dsimp only
  rw [if_neg (by omega), h5]
  dsimp only
  rw [h6]
  dsimp only
  rw [← hbody, htake, Nat.zero_mul, Nat.zero_add, hsame]
  exact if_congr (and_congr_left' hvalue) rfl rfl

theorem Frame.cells_append (f : Frame) (more : List Bool) : f.cells ++ more =
    false :: (f.body ++ (fieldCells 16 (crc16 f.body).toNat ++ (false :: more))) := by
  simp [Frame.cells]

/-- A whole frame with a right check is read as it was sent. -/
theorem readFrame_cells {f : Frame} (hcode : f.code < 32) (hlen : f.payload.length ≤ 64) (more : List Bool) :
    readFrame (f.cells ++ more) = some f := by
  rw [f.cells_append, readFrame_of_body hcode hlen (fieldCells_length 16 _)]
  exact if_pos ⟨rfl, rfl⟩

/-- Nothing but the cells of a whole frame is read. -/
theorem readFrame_eq_some {cells : List Bool} {f : Frame} (h : readFrame cells = some f) :
    f.code < 32 ∧ f.payload.length ≤ 64 ∧ ∃ more, cells = f.cells ++ more := by
  unfold readFrame at h
  split at h
  · next body =>
    split at h
    · cases h
    next code r1 h1 =>
    split at h
    · cases h
    next source r2 h2 =>
    split at h
    · cases h
    next dest r3 h3 =>
    split at h
    · cases h
    next len r4 h4 =>
    split at h
    · cases h
    next hlen =>
    split at h
    · cases h
    next payload r5 h5 =>
    split at h
    · cases h
    next check r6 h6 =>
    split at h
    · next hcheck =>
      obtain ⟨hcode, rfl⟩ := fieldCells_of_read h1
      obtain ⟨hsource, rfl⟩ := fieldCells_of_read h2
      obtain ⟨hdest, rfl⟩ := fieldCells_of_read h3
      obtain ⟨-, rfl⟩ := fieldCells_of_read h4
      obtain ⟨rfl, rfl⟩ := payloadCells_of_read h5
      obtain ⟨-, rfl⟩ := fieldCells_of_read h6
      cases h
      obtain ⟨hcheck, hend⟩ := hcheck
      obtain ⟨more, rfl⟩ : ∃ more, r6 = false :: more := by
        cases r6 with
        | nil => cases hend
        | cons c more => exact ⟨more, by rw [Option.some.inj hend]⟩
      have hbody : (Frame.mk code (Fin.ofNat 16 source) (Fin.ofNat 16 dest) payload).body = fieldCells 5 code ++
          (fieldCells 4 source ++ (fieldCells 4 dest ++ (fieldCells 7 payload.length ++ payloadCells payload))) := by
        rw [Frame.body_eq, Fin.val_ofNat, Fin.val_ofNat, Nat.mod_eq_of_lt (show source < 16 from hsource),
          Nat.mod_eq_of_lt (show dest < 16 from hdest)]
      have hsplit : ∀ tail, fieldCells 5 code ++ (fieldCells 4 source ++ (fieldCells 4 dest ++
          (fieldCells 7 payload.length ++ (payloadCells payload ++ tail)))) =
          (Frame.mk code (Fin.ofNat 16 source) (Fin.ofNat 16 dest) payload).body ++ tail := fun tail => by
        simp only [hbody, List.append_assoc]
      have htake : ∀ tail, ((Frame.mk code (Fin.ofNat 16 source) (Fin.ofNat 16 dest) payload).body ++ tail).take
          (20 + 8 * payload.length) = (Frame.mk code (Fin.ofNat 16 source) (Fin.ofNat 16 dest) payload).body := fun tail =>
        List.take_left' (Frame.body_length _)
      rw [hsplit, htake] at hcheck
      exact ⟨hcode, Nat.le_of_not_lt hlen, more, by rw [Frame.cells_append, hsplit, hcheck]⟩
    · cases h
  · cases h

/-! ### One cell of the check wrong -/

theorem modify_append_length {α : Type} (l l' : List α) (k : Nat) (f : α → α) :
    (l ++ l').modify (l.length + k) f = l ++ l'.modify k f := by
  induction l with
  | nil => simp
  | cons a l ih => rw [List.cons_append, List.length_cons, Nat.add_right_comm, List.modify_succ_cons, ih, List.cons_append]

theorem modify_append_of_lt {α : Type} {l : List α} (l' : List α) {k : Nat} (f : α → α) (h : k < l.length) :
    (l ++ l').modify k f = l.modify k f ++ l' := by
  induction l generalizing k with
  | nil => exact absurd h (Nat.not_lt_zero k)
  | cons a l ih =>
    cases k with
    | zero => rfl
    | succ k => rw [List.cons_append, List.modify_succ_cons, ih (by simpa using h), List.modify_succ_cons, List.cons_append]

theorem modify_not_ne {l : List Bool} {k : Nat} (h : k < l.length) : l.modify k (!·) ≠ l := fun e => by
  have hlen : k < (l.modify k (!·)).length := by rwa [List.length_modify]
  have hk := List.getElem_of_eq e hlen
  rw [List.getElem_modify_eq] at hk
  exact absurd hk (by simp)

/-- The check refuses a frame with one of its own cells wrong. -/
theorem readFrame_of_flipped {f : Frame} (hcode : f.code < 32) (hlen : f.payload.length ≤ 64) (more : List Bool) {k : Nat}
    (hk : k < 16) : readFrame ((f.cells ++ more).modify (1 + f.body.length + k) (!·)) = none := by
  have hk' : k < (fieldCells 16 (crc16 f.body).toNat).length := by rwa [fieldCells_length]
  rw [f.cells_append, show 1 + f.body.length + k = f.body.length + k + 1 by omega, List.modify_succ_cons,
    modify_append_length, modify_append_of_lt _ _ hk',
    readFrame_of_body hcode hlen (by rw [List.length_modify, fieldCells_length])]
  exact if_neg fun h => modify_not_ne hk' h.1

theorem crc16_concat (cells : List Bool) (c : Bool) : crc16 (cells ++ [c]) =
    if (crc16 cells).getLsbD 15 = c then crc16 cells <<< 1 else (crc16 cells <<< 1) ^^^ 0x1021#16 := by
  have hfold : crc16 (cells ++ [c]) = crcStep (crc16 cells) c := by
    rw [crc16, List.foldl_append]
    rfl
  rw [hfold, crcStep, BitVec.msb_eq_getLsbD_last]
  cases (crc16 cells).getLsbD (16 - 1) <;> cases c <;> rfl

/-- Settles O52: the cells of a frame, what reading makes of them, and the check. -/
theorem frameRoundTrip : Obligations.FrameRoundTrip :=
  ⟨fun _ more hcode hlen => ⟨readFrame_cells hcode hlen more, fun _ hk => readFrame_of_flipped hcode hlen more hk⟩,
    fun _ _ => readFrame_eq_some,
    fun f => by simp only [Frame.cells, Frame.body, fieldCells_eq_map, List.cons_append, List.nil_append],
    rfl, crc16_concat⟩

end Sys2Proof.Machine
end

section
/-! The layouts of the payloads (R162). -/
namespace Sys2Proof.Machine

theorem wordOf_bytesOf_of_lt {n w : Nat} (h : w < 256 ^ n) : wordOf (bytesOf n w) = w := by
  rw [wordOf_bytesOf, Nat.mod_eq_of_lt h]

theorem ofNat_val_eq {n v : Nat} [NeZero n] {x : Fin n} (h : v = x.val) : Fin.ofNat n v = x := by
  rw [h, Fin.ofNat_val_eq_self]

theorem ofNat_toNat_eq {n v : Nat} {x : BitVec n} (h : v = x.toNat) : BitVec.ofNat n v = x := by
  rw [h, BitVec.ofNat_toNat, BitVec.setWidth_eq]

theorem directionOf_flag (ul : Bool) {v : Nat} (h : v = if ul then 1 else 0) : directionOf v = if ul then .ul else .dl := by
  subst h
  cases ul <;> rfl

/-! ### What is read, spare bits ignored -/

theorem admitPayload_eq (id : Identity) (q : Quality) (a : Interval) :
    admitPayload id q a = bytesOf 5 (id.toNat * 2 ^ 16 + q.val * 2 ^ 12 + a.val) := by
  have hid := id.isLt
  have hq := q.isLt
  have ha := a.isLt
  rw [admitPayload, field_eq, field_eq, field_eq]
  refine congrArg (bytesOf 5) ?_
  omega

theorem readClaim_word {band : Nat} (h : band < 8) (a : Interval) (spare : Bool) :
    readClaim (bytesOf 2 (band * 2 ^ 13 + (if spare then 2 ^ 12 else 0) + a.val)) = some { band := band, interval := a } := by
  have ha := a.isLt
  generalize hs : (if spare then 2 ^ 12 else 0 : Nat) = v
  have hv : v = 2 ^ 12 ∨ v = 0 := by subst hs; cases spare <;> simp
  rw [readClaim, if_pos (bytesOf_length 2 _)]
  dsimp only
  rw [wordOf_bytesOf_of_lt (by omega), bits_eq, bits_eq, ofNat_val_eq (x := a) (by omega),
    show (band * 2 ^ 13 + v + a.val) / 2 ^ 13 % 2 ^ (15 + 1 - 13) = band by omega]

theorem readBandRelease_word {band spare : Nat} (h : band < 8) (hs : spare < 2 ^ 5) :
    readBandRelease (bytesOf 1 (band * 2 ^ 5 + spare)) = some band := by
  rw [readBandRelease, if_pos (bytesOf_length 1 _), wordOf_bytesOf_of_lt (by omega), bits_eq]
  congr 1
  omega

theorem readAttach_word (id : Identity) (nomadic : Bool) (cls : ServiceClass) (q : Quality) {spare delay : Nat}
    (hs : spare < 2 ^ 6) (hd : delay < 2048) :
    readAttach (bytesOf 6 (id.toNat * 2 ^ 24 + (if nomadic then 2 ^ 23 else 0) + cls.val * 2 ^ 21 + q.val * 2 ^ 17 +
      spare * 2 ^ 11 + delay)) =
      some { identity := id, kind := if nomadic then .nomadic else .fixed, cls := cls, quality := q, delay := delay } := by
  have hid := id.isLt
  have hc := cls.isLt
  have hq := q.isLt
  have hv : (if nomadic then 2 ^ 23 else 0 : Nat) = nomadic.toNat * 2 ^ 23 := by cases nomadic <;> rfl
  have hn := Bool.toNat_le nomadic
  rw [hv, readAttach, if_pos (bytesOf_length 6 _)]
  dsimp only
  rw [wordOf_bytesOf_of_lt (by omega)]
  simp only [bits_eq]
  rw [ofNat_toNat_eq (x := id) (by omega), ofNat_val_eq (x := cls) (by omega), ofNat_val_eq (x := q) (by omega)]
  have hkind : (id.toNat * 2 ^ 24 + nomadic.toNat * 2 ^ 23 + cls.val * 2 ^ 21 + q.val * 2 ^ 17 + spare * 2 ^ 11 + delay) /
      2 ^ 23 % 2 ^ (23 + 1 - 23) = nomadic.toNat := by omega
  have hdelay : (id.toNat * 2 ^ 24 + nomadic.toNat * 2 ^ 23 + cls.val * 2 ^ 21 + q.val * 2 ^ 17 + spare * 2 ^ 11 + delay) /
      2 ^ 0 % 2 ^ (10 + 1 - 0) = delay := by omega
  rw [hkind, hdelay]
  cases nomadic <;> rfl

theorem readQuality_word (g : Tag) (q : Vector Quality 6) (spare : Bool) (e : BitVec 7) :
    readQuality (bytesOf 5 (g.val * 2 ^ 32 + q[0].val * 2 ^ 28 + q[1].val * 2 ^ 24 + q[2].val * 2 ^ 20 + q[3].val * 2 ^ 16 +
      q[4].val * 2 ^ 12 + q[5].val * 2 ^ 8 + (if spare then 2 ^ 7 else 0) + e.toNat)) =
      some { tag := g, q := q, error := e.toInt } := by
  have hg := g.isLt
  have he := e.isLt
  have h0 := q[0].isLt
  have h1 := q[1].isLt
  have h2 := q[2].isLt
  have h3 := q[3].isLt
  have h4 := q[4].isLt
  have h5 := q[5].isLt
  generalize hs : (if spare then 2 ^ 7 else 0 : Nat) = v
  have hv : v = 2 ^ 7 ∨ v = 0 := by subst hs; cases spare <;> simp
  rw [readQuality, if_pos (bytesOf_length 5 _)]
  dsimp only
  rw [wordOf_bytesOf_of_lt (by omega), bits_eq, bits_eq _ 6, ofNat_val_eq (x := g) (by omega),
    ofNat_toNat_eq (x := e) (by omega)]
  congr 2
  apply Vector.ext
  intro b hb
  rw [Vector.getElem_ofFn, bits_eq]
  apply ofNat_val_eq
  match b, hb with
  | 0, _ => simp only; omega
  | 1, _ => simp only; omega
  | 2, _ => simp only; omega
  | 3, _ => simp only; omega
  | 4, _ => simp only; omega
  | 5, _ => simp only; omega

theorem readRange_word (g : Tag) {spare delay : Nat} (hs : spare < 2 ^ 5) (hd : delay < 2048) :
    readRange (bytesOf 3 (g.val * 2 ^ 16 + spare * 2 ^ 11 + delay)) = some { tag := g, delay := delay } := by
  have hg := g.isLt
  rw [readRange, if_pos (bytesOf_length 3 _)]
  dsimp only
  rw [wordOf_bytesOf_of_lt (by omega), bits_eq, bits_eq, ofNat_val_eq (x := g) (by omega)]
  congr 2
  omega

theorem readBuffer_word (g : Tag) (ul : Bool) {spare n : Nat} (hs : spare < 2 ^ 7) (hn : n < 2 ^ 24) :
    readBuffer (bytesOf 5 (g.val * 2 ^ 32 + (if ul then 2 ^ 31 else 0) + spare * 2 ^ 24 + n)) =
      some { tag := g, dir := if ul then .ul else .dl, bytes := n } := by
  have hg := g.isLt
  have hv : (if ul then 2 ^ 31 else 0 : Nat) = (if ul then 1 else 0) * 2 ^ 31 := by cases ul <;> rfl
  have hu : (if ul then 1 else 0 : Nat) ≤ 1 := by cases ul <;> decide
  rw [hv, readBuffer, if_pos (bytesOf_length 5 _)]
  dsimp only
  rw [wordOf_bytesOf_of_lt (by omega), bits_eq, bits_eq, bits_eq, ofNat_val_eq (x := g) (by omega),
    directionOf_flag ul (by omega)]
  congr 2
  omega

theorem readQuery_of_other (x : Byte) {y : Byte} (h : 2 ≤ y.toNat) : readQuery [y, x] = none := by
  refine readQuery_eq_none ?_
  have h0 : y ≠ 0#8 := fun e => absurd h (by rw [e]; decide)
  have h1 : y ≠ 1#8 := fun e => absurd h (by rw [e]; decide)
  simp [layoutHolds, h0, h1]

/-! ### USAGE -/

/-- The cells of a USAGE entry. -/
def usageEntry (e : Tag × Fin 4096 × Fin 16) : List Byte := bytesOf 3 (e.1.val * 2 ^ 16 + e.2.1.val * 16 + e.2.2.val)

theorem readUsageEntries_entries (es : List (Tag × Fin 4096 × Fin 16)) :
    readUsageEntries es.length (es.flatMap usageEntry) = es.map fun e => (e.1, e.2.1.val) := by
  induction es with
  | nil => rfl
  | cons e es ih =>
    obtain ⟨g, n, x⟩ := e
    have hg := g.isLt
    have hn := n.isLt
    have hx := x.isLt
    have hlen : (usageEntry (g, n, x)).length = 3 := bytesOf_length 3 _
    rw [List.length_cons, List.flatMap_cons, readUsageEntries, List.take_left' hlen, List.drop_left' hlen, ih]
    dsimp only [usageEntry]
    rw [wordOf_bytesOf_of_lt (by omega), bits_eq, bits_eq, ofNat_val_eq (x := g) (by omega),
      show (g.val * 2 ^ 16 + n.val * 16 + x.val) / 2 ^ 4 % 2 ^ (15 + 1 - 4) = n.val by omega]
    rfl

theorem readUsage_word (a : Interval) (ul last : Bool) {spare : Nat} (es : List (Tag × Fin 4096 × Fin 16))
    (hs : spare < 2 ^ 5) (hes : es.length ≤ 20) :
    readUsage (bytesOf 3 (a.val * 4096 + (if ul then 2048 else 0) + (if last then 1024 else 0) + spare * 2 ^ 5 + es.length) ++
      es.flatMap usageEntry) =
      some { interval := a, dir := if ul then .ul else .dl, last := last, entries := es.map fun e => (e.1, e.2.1.val) } := by
  have ha := a.isLt
  have hv : (if ul then 2048 else 0 : Nat) = (if ul then 1 else 0) * 2048 := by cases ul <;> rfl
  have hu : (if ul then 1 else 0 : Nat) ≤ 1 := by cases ul <;> decide
  have hl : (if last then 1024 else 0 : Nat) = last.toNat * 1024 := by cases last <;> rfl
  have hlast := Bool.toNat_le last
  have hlen : (es.flatMap usageEntry).length = 3 * es.length := by
    rw [List.length_flatMap]
    simp [usageEntry, Nat.mul_comm]
  rw [hv, hl]
  generalize hw : a.val * 4096 + (if ul then 1 else 0) * 2048 + last.toNat * 1024 + spare * 2 ^ 5 + es.length = w
  have hword : wordOf (bytesOf 3 w) = w := wordOf_bytesOf_of_lt (by omega)
  have hn : bits w 4 0 = es.length := by rw [bits_eq]; omega
  have hbit : (bits w 10 10 == 1) = last := by
    rw [bits_eq, show w / 2 ^ 10 % 2 ^ (10 + 1 - 10) = last.toNat by omega]
    cases last <;> rfl
  rw [readUsage, List.take_left' (bytesOf_length 3 w), List.drop_left' (bytesOf_length 3 w)]
  rw [hword, hn, readUsageEntries_entries, hbit, bits_eq, bits_eq, ofNat_val_eq (x := a) (by omega),
    directionOf_flag ul (by omega)]
  exact if_pos ⟨by rw [List.length_append, bytesOf_length]; omega, hes, by rw [List.length_append, bytesOf_length, hlen]⟩

/-! ### What is sent -/

theorem tagAssignPayload_eq (g : Tag) (id : Identity) : tagAssignPayload g id = bytesOf 4 (g.val * 2 ^ 24 + id.toNat) := by
  have hg := g.isLt
  have hid := id.isLt
  rw [tagAssignPayload, field_eq, field_eq]
  refine congrArg (bytesOf 4) ?_
  omega

theorem attachRefusePayload_eq (id : Identity) (r : RefuseReason) :
    attachRefusePayload id r = bytesOf 4 (id.toNat * 2 ^ 8 + r.code) := by
  have hid := id.isLt
  have hr : r.code ≤ 2 := by cases r <;> decide
  rw [attachRefusePayload, field_eq, field_eq]
  refine congrArg (bytesOf 4) ?_
  omega

theorem grantListPayload_eq (n : Interval) {k : Nat} (last : Bool) {entries : List ListEntry} (hk : k < 8)
    (hentries : entries.length ≤ 15) : grantListPayload n k last entries =
      bytesOf 3 (n.val * 2 ^ 12 + k * 2 ^ 9 + (if last then 2 ^ 8 else 0) + entries.length * 2 ^ 4) ++
        entries.flatMap fun e => bytesOf 4 e.word := by
  have hn := n.isLt
  have hl : (if last then 2 ^ 8 else 0 : Nat) = (if last then 1 else 0) * 2 ^ 8 := by cases last <;> rfl
  rw [grantListPayload, field_eq, field_eq, field_eq, flagBit_eq, hl]
  refine congrArg (bytesOf 3 · ++ entries.flatMap fun e => bytesOf 4 e.word) ?_
  omega

theorem word_range (g : Tag) : (ListEntry.range g).word = g.val * 2 ^ 24 + 3 * 2 ^ 22 := by
  have hg := g.isLt
  rw [ListEntry.word, field_eq, field_eq]
  omega

theorem word_sound (g : Tag) (j : Subchannel) :
    (ListEntry.sound g j).word = g.val * 2 ^ 24 + 2 * 2 ^ 22 + j.val * 2 ^ 16 + 1 * 2 ^ 10 := by
  have hg := g.isLt
  have hj := j.isLt
  simp only [ListEntry.word, field_eq]
  omega

theorem word_data (g : Grant) {code : Nat} (hsize : g.size = 2 ^ code) (hcode : code < 4) (hcount : g.count ≤ 8) :
    (ListEntry.data g).word = g.tag.val * 2 ^ 24 + (if g.dir = .ul then 2 ^ 22 else 0) + g.start.val * 2 ^ 16 +
      code * 2 ^ 14 + g.count * 2 ^ 10 + (if g.order = .interleaved then 2 ^ 9 else 0) +
      (if g.reach = .far then 2 ^ 8 else 0) + g.quality.val * 2 ^ 4 := by
  have hg := g.tag.isLt
  have hstart := g.start.isLt
  have hq := g.quality.isLt
  have hlog : sizeCode g.size = code := by rw [hsize, sizeCode, Nat.log2_two_pow]
  have horder : flagBit (g.order == .interleaved) 9 = if g.order = .interleaved then 2 ^ 9 else 0 := by
    cases g.order <;> rfl
  have hreach : flagBit (g.reach == .far) 8 = if g.reach = .far then 2 ^ 8 else 0 := by cases g.reach <;> rfl
  rw [ListEntry.word, hlog, horder, hreach]
  cases g.dir <;> simp only [field_eq, reduceCtorEq, if_true, if_false] <;> omega

/-- Settles O53: each payload, read and sent. -/
theorem payloadLayouts : Obligations.PayloadLayouts := by
  refine ⟨readClaim_claimPayload, readBandRelease_bandReleasePayload, readAdmit_admitPayload,
    fun b a => ⟨claimPayload_eq b a, bandReleasePayload_eq b⟩,
    fun id q a => ⟨admitPayload_eq id q a, by rw [← admitPayload_eq, readAdmit_admitPayload]⟩,
    fun band a spare h => readClaim_word h a spare, fun _ _ => readBandRelease_word,
    fun id nomadic cls q spare delay => readAttach_word id nomadic cls q, readQuality_word,
    fun g _ _ => readRange_word g, fun g ul _ _ => readBuffer_word g ul, readTag_bytesOf, readQuery_byTag,
    fun x => ⟨readQuery_ofStation x, fun _ => readQuery_of_other x⟩, readClear_bytesOf,
    fun a ul last spare es => readUsage_word a ul last es,
    fun g id => ⟨tagAssignPayload_eq g id, attachRefusePayload_eq id .rangeOut, attachRefusePayload_eq id .tableFull⟩,
    fun n k last entries => grantListPayload_eq n last, word_range, word_sound, fun g code => word_data g⟩

end Sys2Proof.Machine
end

section
/-! The bus rows: receiving, arbitration, and the fate of the telegram on the wire (R151 to R160). -/
namespace Sys2Proof.Machine

/-! ### Receiving -/

theorem ofCode_eq_some {code : Nat} {k : Kind} (h : Kind.ofCode code = some k) : k.code = code := by
  unfold Kind.ofCode at h
  split at h <;> cases h <;> rfl

theorem ofCode_code (k : Kind) : Kind.ofCode k.code = some k := by cases k <;> rfl

theorem mem_kindCodes (code : Nat) (k : Kind) : (code, k) ∈
    [(1, Kind.claim), (2, .bandRelease), (3, .admission), (5, .grantList), (8, .usage), (9, .attach), (10, .range),
     (11, .quality), (12, .buffer), (13, .detach), (16, .tagAssign), (17, .attachRefuse), (18, .releaseNotice), (20, .query),
     (21, .release), (22, .retrain), (23, .clear), (24, .reset), (28, .status), (29, .alert)] ↔ code = k.code := by
  cases k <;> simp [Kind.code]

theorem receiveCells_of_frame {s : State} {f : Frame} (ha : s.acting = true) (hw : s.wire = none) (hcode : f.code < 32)
    (hlen : f.payload.length ≤ 64) : receiveCells f.cells s = match s.keeps f with
      | some t => receive t s
      | none => s := by
  have hread := readFrame_cells hcode hlen []
  rw [List.append_nil] at hread
  rw [receiveCells, if_pos ⟨ha, hw⟩, hread]
  rfl

theorem receiveCells_of_unread {s : State} {cells : List Bool} (h : readFrame cells = none) : receiveCells cells s = s := by
  rw [receiveCells, h]
  exact ite_self s

theorem exec_frameReceived {s : State} (cells : List Bool) (h : s.agenda = []) :
    exec (.frameReceived cells) s = .next (receiveCells cells s) :=
  congrArg (fun u => Host.Outcome.next (receiveCells cells u)) (settle_of_empty h)

/-- The receive filter passes a frame of a known kind, for this station, from a source of the right role. -/
theorem keeps_eq_some {s : State} {f : Frame} {k : Kind} (hk : Kind.ofCode f.code = some k)
    (hdest : f.dest = s.ownStation ∨ f.dest = 15) (hsource : f.source ≠ 15) (hrole : s.roleHolds k f.source = true) :
    s.keeps f = some { kind := k, source := f.source, payload := f.payload } := by
  rw [State.keeps, hk]
  exact if_pos ⟨hdest, hsource, hrole⟩

theorem keeps_eq_none {s : State} {f : Frame} (h : ∀ k, Kind.ofCode f.code = some k →
    f.dest ≠ s.ownStation ∧ f.dest ≠ 15 ∨ f.source = 15 ∨ s.roleHolds k f.source = false) : s.keeps f = none := by
  rw [State.keeps]
  split
  · rfl
  · next k hk =>
    refine if_neg ?_
    rintro ⟨hdest, hsource, hrole⟩
    rcases h k hk with ⟨hown, hall⟩ | h15 | hno
    · exact hdest.elim hown hall
    · exact hsource h15
    · rw [hno] at hrole
      cases hrole

/-- Settles O47: the filter, the buffer of eight, and the roles and codes of the kinds. -/
theorem frameReceivedFiltered : Obligations.FrameReceivedFiltered := by
  refine ⟨fun s code source dest p hagenda ha hw hcode hlen => ?_, fun s cells hagenda hread => ?_,
    fun s cells hagenda hw => ?_, fun s source => ?_, fun code k => ?_⟩
  · intro f
    refine ⟨fun k hk hdest hsource hrole => ?_, fun hno => ?_⟩
    · have run : exec (.frameReceived f.cells) s = .next (receive { kind := k, source := source, payload := p } s) := by
        rw [exec_frameReceived _ hagenda, receiveCells_of_frame (f := f) ha hw hcode hlen,
          keeps_eq_some (f := f) hk hdest hsource hrole]
      refine ⟨fun hroom => ?_, fun hfull => ?_⟩
      · rw [run, receive, if_pos hroom]
      · rw [run, receive, if_neg (Nat.not_lt.mpr hfull)]
    · rw [exec_frameReceived _ hagenda, receiveCells_of_frame (f := f) ha hw hcode hlen, keeps_eq_none (f := f) hno]
  · rw [exec_frameReceived _ hagenda, receiveCells_of_unread hread]
  · rw [exec_frameReceived _ hagenda, receiveCells, if_neg fun h => hw h.2]
  · simp [State.roleHolds]
  · rw [mem_kindCodes]
    exact ⟨fun h => (ofCode_eq_some h).symm, fun h => h ▸ ofCode_code k⟩

/-! ### The telegram on the wire -/

theorem endSequence_of_running {s : State} (h : s.resetSeq = none ∨ ∃ x ∈ s.txQueue, x.ofSequence = true) :
    endSequence s = s := by
  rcases h with hnone | hleft
  · refine if_neg fun h => ?_
    rw [hnone] at h
    exact absurd h.1 (by decide)
  · exact endSequence_of_left hleft

theorem finishFrame_of_wire {s : State} {x : TxTelegram} (h : s.wire = some x) :
    finishFrame s = endSequence (reportSent x.owner s.clearWire) := by rw [finishFrame, h]

theorem abandonFrame_of_removal {s : State} {x : TxTelegram} (h : s.wire = some x) (hr : x.removal = true) :
    abandonFrame s = endSequence (reportRemoved x.owner s.clearWire) := by
  rw [abandonFrame, h]
  exact if_pos hr

theorem abandonFrame_of_third {s : State} {x : TxTelegram} (h : s.wire = some x) (hr : x.removal = false)
    (ha : 2 ≤ x.attempts) : abandonFrame s = endSequence (reportDropped x.owner (raise .txFail s.clearWire)) := by
  rw [abandonFrame, h]
  dsimp only
  rw [hr, if_neg Bool.false_ne_true, if_pos (by omega)]

theorem find?_append_cons {α : Type} {p : α → Bool} {before : List α} {x : α} (after : List α)
    (hb : ∀ y ∈ before, p y = false) (hx : p x = true) : (before ++ x :: after).find? p = some x := by
  rw [List.find?_append, List.find?_eq_none.mpr fun y hy => by simp [hb y hy], List.find?_cons_of_pos hx]
  rfl

theorem updateFirst_append_cons {α : Type} {p : α → Bool} (f : α → α) {before : List α} {x : α} (after : List α)
    (hb : ∀ y ∈ before, p y = false) (hx : p x = true) :
    updateFirst p f (before ++ x :: after) = before ++ f x :: after := by
  induction before with
  | nil => exact if_pos hx
  | cons y before ih =>
    have hy : p y = false := hb y List.mem_cons_self
    rw [List.cons_append, updateFirst, hy, ih fun z hz => hb z (List.mem_cons_of_mem y hz)]
    rfl

theorem abandonFrame_of_retry {s : State} {before after : List TxTelegram} {x : TxTelegram}
    (hq : s.txQueue = before ++ x :: after) (hb : ∀ y ∈ before, y.onWire = false) (hx : x.onWire = true)
    (hr : x.removal = false) (ha : x.attempts < 2) : abandonFrame s =
      s.setTxQueue (before ++ { x with attempts := x.attempts + 1, onWire := false } :: after) := by
  have hwire : s.wire = some x := by rw [State.wire, hq, find?_append_cons after hb hx]
  rw [abandonFrame, hwire]
  dsimp only
  rw [if_neg (by rw [hr]; exact Bool.false_ne_true), if_neg (by omega), hq, updateFirst_append_cons _ after hb hx]

theorem exec_frameSent {s : State} (h : s.agenda = []) : exec .frameSent s = .next (finishFrame s) :=
  congrArg (fun u => Host.Outcome.next (finishFrame u)) (settle_of_empty h)

theorem exec_transmitError {s : State} (h : s.agenda = []) : exec .transmitError s = .next (abandonFrame s) :=
  congrArg (fun u => Host.Outcome.next (abandonFrame u)) (settle_of_empty h)

theorem exec_frameTransmitStart {s : State} (bus : BitVec 9) (h : s.agenda = []) :
    exec (.frameTransmitStart bus) s = .next (beginFrame bus s) :=
  congrArg (fun u => Host.Outcome.next (beginFrame bus u)) (settle_of_empty h)

/-! ### Starting a frame -/

theorem firstClass_cons (x : TxTelegram) (q : List TxTelegram) : firstClass (x :: q) = min x.kind.priority (firstClass q) := rfl

theorem le_firstClass {n : Nat} {q : List TxTelegram} (hn : n ≤ 7) (h : ∀ y ∈ q, n ≤ y.kind.priority) : n ≤ firstClass q := by
  induction q with
  | nil => exact hn
  | cons x q ih =>
    rw [firstClass_cons]
    exact le_min (h x List.mem_cons_self) (ih fun y hy => h y (List.mem_cons_of_mem x hy))

/-- The class of the first of its class, nothing of a higher class standing in the queue. -/
theorem firstClass_eq {before after : List TxTelegram} {x : TxTelegram} (hb : ∀ y ∈ before, x.kind.priority < y.kind.priority)
    (ha : ∀ y ∈ after, x.kind.priority ≤ y.kind.priority) : firstClass (before ++ x :: after) = x.kind.priority := by
  have hx := priority_le_six x.kind
  induction before with
  | nil => rw [List.nil_append, firstClass_cons, min_eq_left (le_firstClass (by omega) ha)]
  | cons y before ih =>
    rw [List.cons_append, firstClass_cons, ih fun z hz => hb z (List.mem_cons_of_mem y hz),
      min_eq_right (hb y List.mem_cons_self).le]

/-- What beginning the oldest telegram of the highest class makes of what is read back. -/
theorem beginFrame_of_first {s : State} {bus : BitVec 9} {before after : List TxTelegram} {x : TxTelegram} (ha : s.acting = true)
    (hw : s.wire = none) (hq : s.txQueue = before ++ x :: after) (hb : ∀ y ∈ before, x.kind.priority < y.kind.priority)
    (hafter : ∀ y ∈ after, x.kind.priority ≤ y.kind.priority) : beginFrame bus s =
      if bus < arbitrationCells x.kind s.ownStation then s
      else if arbitrationCells x.kind s.ownStation < bus then
        abandonFrame (s.setTxQueue (before ++ { x with onWire := true } :: after))
      else s.setTxQueue (before ++ { x with onWire := true } :: after) := by
  have hfirst : firstClass s.txQueue = x.kind.priority := by rw [hq, firstClass_eq hb hafter]
  have hbefore : ∀ y ∈ before, (y.kind.priority == x.kind.priority) = false := fun y hy => by
    simpa using (hb y hy).ne'
  rw [beginFrame, if_pos ⟨ha, hw⟩, firstInOrder, hfirst, hq, find?_append_cons after hbefore (beq_self_eq_true _),
    updateFirst_append_cons _ after hbefore (beq_self_eq_true _)]

/-- Settles O48: the nine cells decide what becomes of the first telegram in queue order. -/
theorem frameTransmitStarts : Obligations.FrameTransmitStarts := by
  refine ⟨fun s bus hagenda ha => ⟨fun h => ?_, fun before after x hw hq hb hafter => ?_⟩, fun k => by cases k <;> decide⟩
  · rw [exec_frameTransmitStart bus hagenda, beginFrame]
    rcases h with hw | hq
    · rw [if_neg fun h => hw h.2]
    · rw [hq]
      exact congrArg _ (ite_self s)
  · intro drive
    have hdrive : arbitrationCells x.kind s.ownStation = drive := rfl
    have run := beginFrame_of_first (bus := bus) ha hw hq hb hafter
    rw [hdrive] at run
    have hnone : ∀ y ∈ s.txQueue, y.onWire = false := fun y hy => by simpa using List.find?_eq_none.mp hw y hy
    have hbefore : ∀ y ∈ before, y.onWire = false := fun y hy => hnone y (by rw [hq]; exact List.mem_append_left _ hy)
    have hxwire : x.onWire = false := hnone x (by simp [hq])
    have error (h : drive < bus) :
        beginFrame bus s = abandonFrame (s.setTxQueue (before ++ { x with onWire := true } :: after)) := by
      rw [run, if_neg (BitVec.lt_asymm h), if_pos h]
    rw [exec_frameTransmitStart bus hagenda]
    refine ⟨fun h => ?_, fun h => ?_, fun h => ?_, fun h hr hatt => ?_, fun h hr hatt hown hseq => ?_⟩
    · rw [run, h, if_neg (BitVec.lt_irrefl _), if_neg (BitVec.lt_irrefl _)]
    · rw [run, if_pos h]
    · rw [error h]
      have hsent : (s.setTxQueue (before ++ { x with onWire := true } :: after)).agenda = [] := hagenda
      exact (exec_transmitError hsent).symm
    · rw [error h, abandonFrame_of_retry (s := s.setTxQueue _) (x := { x with onWire := true }) rfl hbefore rfl hr hatt, hxwire]
      rfl
    · have hwire : (s.setTxQueue (before ++ { x with onWire := true } :: after)).wire = some { x with onWire := true } :=
        find?_append_cons after hbefore rfl
      have hbeforeKept : before.filter (fun y => !y.onWire) = before := List.filter_eq_self.mpr fun y hy => by simp [hbefore y hy]
      have hafterKept : after.filter (fun y => !y.onWire) = after := List.filter_eq_self.mpr fun y hy => by
        simp [hnone y (by simp [hq, hy])]
      have hclear : (s.setTxQueue (before ++ { x with onWire := true } :: after)).clearWire = s.setTxQueue (before ++ after) := by
        rw [State.clearWire, setTxQueue_txQueue, List.filter_append, List.filter_cons, hbeforeKept, hafterKept]
        rfl
      rw [error h, abandonFrame_of_third hwire hr hatt, hclear]
      dsimp only
      rw [hown]
      exact congrArg _ (endSequence_of_running (.inl (((raise_keeps _ _).resetSeq_eq (by decide)).trans hseq)))

end Sys2Proof.Machine
end

section
/-! What the owner of a telegram hears of its fate (R79, R80, R83, R139, R141, R153, R159). -/
namespace Sys2Proof.Machine

/-! ### One telegram of the register -/

/-- The states of the telegrams once one of them is rewritten. -/
theorem listState_rewritten {s : State} {n : Interval} {k : Nat} {v w : ListState} {f : RegisterEntry → RegisterEntry}
    (hinterval : ∀ e, (f e).interval = e.interval) (htelegrams : ∀ e, (f e).telegrams = e.telegrams.set k v)
    (h : s.listState n k = some w) (m : Interval) (j : Nat) :
    (s.updateRegister n f).listState m j = if (m, j) = (n, k) then some v else s.listState m j := by
  rw [State.listState, registerOf_updateRegister hinterval, State.listState]
  rw [State.listState] at h
  by_cases hm : m = n
  · subst hm
    rw [if_pos rfl]
    obtain ⟨e, he, hk⟩ := Option.bind_eq_some_iff.mp h
    rw [he, Option.map_some, Option.bind_some, Option.bind_some, htelegrams, List.getElem?_set]
    obtain ⟨hlt, -⟩ := List.getElem?_eq_some_iff.mp hk
    by_cases hj : k = j
    · subst hj
      rw [if_pos rfl, if_pos hlt, if_pos rfl]
    · rw [if_neg hj, if_neg fun e => hj (congrArg Prod.snd e).symm]
  · rw [if_neg hm, if_neg fun e => hm (congrArg Prod.fst e)]

theorem listState_marked {s : State} {n : Interval} {k : Nat} {v w : ListState} (h : s.listState n k = some w)
    (m : Interval) (j : Nat) : (s.updateRegister n (·.mark k v)).listState m j =
      if (m, j) = (n, k) then some v else s.listState m j :=
  listState_rewritten (f := (·.mark k v)) (fun _ => rfl) (fun _ => rfl) h m j

/-! ### A telegram was sent -/

theorem claimSent_of_none {b : Band} {s : State} (h : (s.own b).outstanding = none) : claimSent b s = s := by
  rw [claimSent, h]

theorem claimSent_of_first {b : Band} {s : State} {a : Interval} (ha : (s.own b).outstanding = some a)
    (hst : (s.own b).state = .announced) (hp : (s.own b).phase = none) :
    claimSent b s = s.putOwn b { s.own b with outstanding := none, phase := some 8 } := by
  rw [claimSent, ha]
  exact if_pos ⟨hst, hp⟩

theorem claimSent_of_later {b : Band} {s : State} {a : Interval} (ha : (s.own b).outstanding = some a)
    (h : (s.own b).state ≠ .announced ∨ (s.own b).phase ≠ none) :
    claimSent b s = s.putOwn b { s.own b with outstanding := none } := by
  rw [claimSent, ha]
  exact if_neg fun hm => h.elim (fun h => h hm.1) fun h => h hm.2

/-- Settles O49: each owner's report, and the end of a reset sequence. -/
theorem frameSentReported : Obligations.FrameSentReported := by
  intro s hagenda
  rw [exec_frameSent hagenda]
  refine ⟨fun hw => by rw [finishFrame, hw], fun x hx => ?_⟩
  intro u
  have hkeeps := reportSent_keeps x.owner u
  have hqueue : (reportSent x.owner u).txQueue = u.txQueue := hkeeps.txQueue_eq (by decide)
  have hseq : (reportSent x.owner u).resetSeq = s.resetSeq := hkeeps.resetSeq_eq (by decide)
  have hfinish : finishFrame s = endSequence (reportSent x.owner u) := finishFrame_of_wire hx
  refine ⟨fun hrun => ?_, fun hr hdone => ⟨_, rfl, ?_⟩⟩
  · have run : finishFrame s = reportSent x.owner u := by
      rw [hfinish, endSequence_of_running (by rw [hqueue, hseq]; exact hrun)]
    rw [run]
    refine ⟨fun b a ho ha hst hp => ?_, fun b a ho ha hlater => ?_, fun b ho hnone => ?_, fun n k ho hq => ?_,
      fun n k ho hq => ?_, fun ho => ?_⟩
    · rw [ho]
      exact congrArg _ (claimSent_of_first (s := u) ha hst hp)
    · rw [ho]
      exact congrArg _ (claimSent_of_later (s := u) ha hlater)
    · rw [ho]
      exact congrArg _ (claimSent_of_none (s := u) hnone)
    · have hlist := listState_marked (s := u) (v := .sent) hq
      have hsent : reportSent x.owner u = u.updateRegister n (·.mark k .sent) := by
        rw [ho]
        exact if_pos hq
      refine ⟨_, rfl, ?_, fun m j hne => ?_, hqueue, ?_⟩
      · rw [hsent, hlist, if_pos rfl]
      · rw [hsent, hlist, if_neg hne]
        rfl
      · rw [hsent]
        exact ((setTxQueue_keeps s _).mono (by decide)).andThen (updateRegister_keeps u _ _) (by decide)
    · rw [ho]
      exact congrArg _ (if_neg (c := u.listState n k = some .queued) hq)
    · rcases ho with ⟨b, q, ho⟩ | ho | ho <;> rw [ho] <;> rfl
  · have hreset : finishFrame s = stationReset (reportSent x.owner u) := by
      rw [hfinish, endSequence_of_done (by rwa [hseq]) (by rwa [hqueue])]
    rw [hreset]
    exact (stationReset_spec _).of_keeps (((setTxQueue_keeps s _).mono (l' := .txQueue :: offering) (by decide)).andThen
      hkeeps (by decide)) (by decide) (by decide) (by decide) (by decide)

/-! ### A telegram was removed or dropped -/

/-- Nobody acts on the fate of a telegram of this owner. -/
def State.unheard (s : State) (o : Owner) : Prop :=
  o = .unreported ∨ o = .disowned ∨ (∃ b q, o = .bandRelease b q) ∨ (∃ b, o = .claim b ∧ (s.own b).outstanding = none) ∨
    ∃ n k, o = .grantList n k ∧ s.listState n k ≠ some .queued

theorem claimGone_of_none {b : Band} {s : State} (h : (s.own b).outstanding = none) : claimGone b s = s := by
  rw [claimGone, h]

theorem reportRemoved_of_unheard {s : State} {o : Owner} (h : s.unheard o) : reportRemoved o s = s := by
  rcases h with rfl | rfl | ⟨b, q, rfl⟩ | ⟨b, rfl, hnone⟩ | ⟨n, k, rfl, hq⟩
  · rfl
  · rfl
  · rfl
  · exact claimGone_of_none hnone
  · exact if_neg hq

theorem reportDropped_of_unheard {s : State} {o : Owner} (h : s.unheard o) : reportDropped o s = s := by
  rcases h with rfl | rfl | ⟨b, q, rfl⟩ | ⟨b, rfl, hnone⟩ | ⟨n, k, rfl, hq⟩
  · rfl
  · rfl
  · rfl
  · exact claimGone_of_none hnone
  · exact if_neg hq

theorem unheard_of_keeps {l : List Field} {s t : State} {o : Owner} (hk : Keeps l s t) (hc : .claims ∉ l)
    (hr : .register ∉ l) (h : s.unheard o) : t.unheard o := by
  rw [State.unheard, listState_of_keeps hk hr]
  simp only [hk.own_eq hc]
  exact h

/-- The record of a band whose outstanding CLAIM is gone (R79, R80). -/
theorem claimGone_of_some {b : Band} {s : State} {c : OwnClaim} {a : Interval} (hc : s.own b = c) (ha : c.outstanding = some a) :
    claimGone b s = s.putOwn b (if c.state = .announced ∧ c.phase = none
      then { c with state := .free, announced := none, phase := none, outstanding := none }
      else { c with outstanding := none }) := by
  rw [claimGone, hc, ha, apply_ite (s.putOwn b)]
  rfl

theorem AlertsAdded.mem {q q' : List TxTelegram} (h : AlertsAdded q q') {x : TxTelegram} (hx : x ∈ q) : x ∈ q' := by
  obtain ⟨more, -, rfl⟩ := h
  exact List.mem_append_left _ hx

/-- An ALERT is no telegram of a reset sequence. -/
theorem AlertsAdded.ofSequence {q q' : List TxTelegram} (h : AlertsAdded q q') (hq : ∀ x ∈ q, x.ofSequence = false) :
    ∀ x ∈ q', x.ofSequence = false := by
  obtain ⟨more, hmore, rfl⟩ := h
  intro x hx
  rcases List.mem_append.mp hx with hx | hx
  · exact hq x hx
  · rw [TxTelegram.ofSequence, hmore x hx]

/-- The report of a removal puts nothing but ALERTs into the queue. -/
theorem reportRemoved_txQueue (o : Owner) (s : State) : AlertsAdded s.txQueue (reportRemoved o s).txQueue := by
  have same : ∀ {t : State}, t.txQueue = s.txQueue → AlertsAdded s.txQueue t.txQueue := fun h => h ▸ AlertsAdded.refl _
  cases o with
  | claim b => exact same ((claimGone_keeps b s).txQueue_eq (by decide))
  | grantList n k =>
    show AlertsAdded s.txQueue (listWithdrawn n k s).txQueue
    unfold listWithdrawn
    split
    · dsimp only
      split
      · exact same ((rollbackWhere_keeps _ _).txQueue_eq (by decide))
      · have h := raise_txQueue .lateList (rollbackWhere (·.carriedBy n k)
          (s.updateRegister n fun e => { e.mark k .withdrawn with late := true }))
        rwa [(rollbackWhere_keeps _ _).txQueue_eq (by decide)] at h
    · exact AlertsAdded.refl _
  | bandRelease _ _ => exact AlertsAdded.refl _
  | unreported => exact AlertsAdded.refl _
  | disowned => exact AlertsAdded.refl _

theorem reportDropped_txQueue (o : Owner) (s : State) : (reportDropped o s).txQueue = s.txQueue :=
  (reportDropped_keeps o s).txQueue_eq (by decide)

/-- Work after which a reset sequence is still under way, or not, as before. -/
theorem endSequence_of_alerts {s t : State} (hseq : t.resetSeq = s.resetSeq) (hq : AlertsAdded s.txQueue t.txQueue)
    (h : s.resetSeq = none ∨ ∃ x ∈ s.txQueue, x.ofSequence = true) : endSequence t = t := by
  refine endSequence_of_running ?_
  rw [hseq]
  exact h.imp_right fun ⟨x, hx, hx'⟩ => ⟨x, hq.mem hx, hx'⟩

/-- The report that a GRANT LIST was withdrawn on the wire (R141). -/
theorem listWithdrawn_of_queued {s : State} {n : Interval} {k : Nat} (h : s.listState n k = some .queued) :
    listWithdrawn n k s =
      if (s.registerOf n).any (·.late) then
        rollbackWhere (·.carriedBy n k) (s.updateRegister n fun e => { e.mark k .withdrawn with late := true })
      else raise .lateList
        (rollbackWhere (·.carriedBy n k) (s.updateRegister n fun e => { e.mark k .withdrawn with late := true })) :=
  if_pos h

theorem listDropped_of_queued {s : State} {n : Interval} {k : Nat} (h : s.listState n k = some .queued) :
    listDropped n k s = rollbackWhere (·.carriedBy n k) (s.updateRegister n (·.mark k .dropped)) := if_pos h

theorem registerOf_any_late {s : State} {n : Interval} (h : ∀ e ∈ s.register, e.interval = n → e.late = false) :
    (s.registerOf n).any (·.late) = false := by
  cases he : s.registerOf n with
  | none => rfl
  | some e => exact h e (List.mem_of_find?_eq_some he) (by simpa using List.find?_some he)

theorem restoreBits_contexts {s t : State} (h : t.contexts = s.contexts) (r : Record) :
    (restoreBits t r).contexts = (restoreBits s r).contexts := by
  rw [restoreBits_eq, restoreBits_eq]
  split
  · exact h
  · simp only [State.putCtx, State.ctx, setContexts_contexts, h]

/-- A rollback reads nothing but the contexts and the records. -/
theorem rollbackWhere_contexts (p : Record → Bool) {s t : State} (hc : t.contexts = s.contexts) (hr : t.records = s.records) :
    (rollbackWhere p t).contexts = (rollbackWhere p s).contexts := by
  have fold : ∀ (rs : List Record) {s t : State}, t.contexts = s.contexts →
      (rs.foldl restoreBits t).contexts = (rs.foldl restoreBits s).contexts := by
    intro rs
    induction rs with
    | nil => exact fun h => h
    | cons r rs ih => exact fun h => ih (restoreBits_contexts h r)
  rw [rollbackWhere, rollbackWhere, setRecords_contexts, setRecords_contexts, hr]
  exact fold _ hc

/-- What the report of a withdrawn GRANT LIST does to the telegram, its records and the condition (R141). -/
theorem listWithdrawn_spec {s : State} {n : Interval} {k : Nat} (hq : s.listState n k = some .queued) :
    ∃ t v, listWithdrawn n k s = t ∧
      v = rollbackWhere (·.carriedBy n k) (s.updateRegister n fun e => { e.mark k .withdrawn with late := true }) ∧
      t = (if (s.registerOf n).any (·.late) then v else raise .lateList v) ∧
      t.records = (rollbackWhere (·.carriedBy n k) s).records ∧ t.contexts = (rollbackWhere (·.carriedBy n k) s).contexts ∧
      t.listState n k = some .withdrawn ∧ (∀ m j, (m, j) ≠ (n, k) → t.listState m j = s.listState m j) ∧
      ((∀ e ∈ s.register, e.interval = n → e.late = false) → t.raised .lateList = true) := by
  obtain ⟨v, hv⟩ : ∃ v, v = rollbackWhere (·.carriedBy n k)
    (s.updateRegister n fun e => { e.mark k .withdrawn with late := true }) := ⟨_, rfl⟩
  obtain ⟨t, ht⟩ : ∃ t, t = if (s.registerOf n).any (·.late) then v else raise .lateList v := ⟨_, rfl⟩
  have run : listWithdrawn n k s = t := by rw [listWithdrawn_of_queued hq, ht, hv]
  have hkeep : Keeps [.flags, .txQueue] v t := by
    rw [ht]
    split
    · exact Keeps.refl _ v
    · exact raise_keeps .lateList v
  have hback : v = (rollbackWhere (·.carriedBy n k) s).setRegister _ := hv.trans (rollbackWhere_setRegister _ s _)
  have hlist : ∀ m j, t.listState m j = if (m, j) = (n, k) then some .withdrawn else s.listState m j := fun m j => by
    rw [listState_of_keeps hkeep (by decide), hv, listState_of_keeps (rollbackWhere_keeps _ _) (by decide)]
    exact listState_rewritten (f := fun e => { e.mark k .withdrawn with late := true }) (fun _ => rfl) (fun _ => rfl) hq m j
  refine ⟨t, v, run, hv, ht, ?_, ?_, by rw [hlist, if_pos rfl], fun m j hne => by rw [hlist, if_neg hne], fun hlate => ?_⟩
  · rw [hkeep.records_eq (by decide), hback, setRegister_records]
  · rw [hkeep.contexts_eq (by decide), hback, setRegister_contexts]
  · rw [ht, registerOf_any_late hlate]
    exact raise_raised _ _ _ (.inl rfl)

/-- What the report of a GRANT LIST dropped at its third attempt does to the telegram, its records and the conditions (R139). -/
theorem listDropped_spec {s : State} {n : Interval} {k : Nat} (hq : s.listState n k = some .queued) :
    ∃ t, listDropped n k (raise .txFail s) = t ∧
      t = rollbackWhere (·.carriedBy n k) ((raise .txFail s).setRegister (s.register.map fun e =>
        if e.interval = n then e.mark k .dropped else e)) ∧
      t.records = (rollbackWhere (·.carriedBy n k) s).records ∧ t.contexts = (rollbackWhere (·.carriedBy n k) s).contexts ∧
      t.listState n k = some .dropped ∧ (∀ m j, (m, j) ≠ (n, k) → t.listState m j = s.listState m j) ∧
      t.raised .txFail = true ∧ t.raised .lateList = s.raised .lateList := by
  have hraise := raise_keeps .txFail s
  have hq' : (raise .txFail s).listState n k = some .queued := by rw [listState_of_keeps hraise (by decide), hq]
  have hregister : (raise .txFail s).updateRegister n (·.mark k .dropped) =
      (raise .txFail s).setRegister (s.register.map fun e => if e.interval = n then e.mark k .dropped else e) := by
    rw [State.updateRegister, hraise.register_eq (by decide)]
  obtain ⟨t, ht⟩ : ∃ t, t = rollbackWhere (·.carriedBy n k) ((raise .txFail s).updateRegister n (·.mark k .dropped)) :=
    ⟨_, rfl⟩
  have hback : t = (rollbackWhere (·.carriedBy n k) (raise .txFail s)).setRegister _ :=
    ht.trans (rollbackWhere_setRegister _ (raise .txFail s) _)
  have hlist : ∀ m j, t.listState m j = if (m, j) = (n, k) then some .dropped else s.listState m j := fun m j => by
    rw [ht, listState_of_keeps (rollbackWhere_keeps _ _) (by decide), listState_marked hq',
      listState_of_keeps hraise (by decide)]
  have hflags : t.flags = (raise .txFail s).flags := by
    rw [ht, (rollbackWhere_keeps _ _).flags_eq (by decide)]
    rfl
  refine ⟨t, (listDropped_of_queued hq').trans ht.symm, by rw [ht, hregister], ?_, ?_, by rw [hlist, if_pos rfl],
    fun m j hne => by rw [hlist, if_neg hne], ?_, ?_⟩
  · rw [hback, setRegister_records, rollbackWhere_records, rollbackWhere_records, hraise.records_eq (by decide)]
  · rw [hback, setRegister_contexts]
    exact rollbackWhere_contexts _ (hraise.contexts_eq (by decide)) (hraise.records_eq (by decide))
  · rw [State.raised, hflags]
    exact raise_raised .txFail _ _ (.inl rfl)
  · rw [State.raised, hflags]
    exact raised_raise_of_ne (c := .txFail) (d := .lateList) (by decide) (by decide)

/-- Settles O50: another attempt, or each owner's report of a removal or a drop. -/
theorem transmitErrorTaken : Obligations.TransmitErrorTaken := by
  intro s hagenda
  rw [exec_transmitError hagenda]
  refine ⟨fun hw => by rw [abandonFrame, hw], fun x hx => ?_⟩
  intro u
  have clears : Keeps offering s u := (setTxQueue_keeps s _).mono (by decide)
  have removed (hr : x.removal = true) : abandonFrame s = endSequence (reportRemoved x.owner u) := abandonFrame_of_removal hx hr
  have dropped (hr : x.removal = false) (ha : 2 ≤ x.attempts) :
      abandonFrame s = endSequence (reportDropped x.owner (raise .txFail u)) := abandonFrame_of_third hx hr ha
  have hraise := raise_keeps .txFail u
  have hremovedSeq : (reportRemoved x.owner u).resetSeq = u.resetSeq := (reportRemoved_keeps _ _).resetSeq_eq (by decide)
  have hdroppedSeq : (reportDropped x.owner (raise .txFail u)).resetSeq = u.resetSeq :=
    ((reportDropped_keeps _ _).resetSeq_eq (by decide)).trans (hraise.resetSeq_eq (by decide))
  have hremovedQueue := reportRemoved_txQueue x.owner u
  have hdroppedQueue : AlertsAdded u.txQueue (reportDropped x.owner (raise .txFail u)).txQueue := by
    rw [reportDropped_txQueue]
    exact raise_txQueue .txFail u
  refine ⟨fun before after hq hb hr ha => ?_, fun hrun => ?_, fun hr hdone hfate => ?_⟩
  · have hwire : x.onWire = true := by simpa using List.find?_some hx
    exact congrArg _ (abandonFrame_of_retry hq hb hwire hr ha)
  · have removed (hr : x.removal = true) : abandonFrame s = reportRemoved x.owner u := by
      rw [removed hr, endSequence_of_alerts hremovedSeq hremovedQueue hrun]
    have dropped (hr : x.removal = false) (ha : 2 ≤ x.attempts) :
        abandonFrame s = reportDropped x.owner (raise .txFail u) := by
      rw [dropped hr ha, endSequence_of_alerts hdroppedSeq hdroppedQueue hrun]
    refine ⟨fun ho => ?_, fun b a ho ha => ?_, fun n k ho hq => ?_⟩
    · have hu : u.unheard x.owner := ho
      refine ⟨fun hr => ?_, fun hr ha => ?_⟩
      · rw [removed hr, reportRemoved_of_unheard hu]
      · rw [dropped hr ha, reportDropped_of_unheard (unheard_of_keeps hraise (by decide) (by decide) hu)]
    · intro gone
      refine ⟨fun hr => ?_, fun hr hatt => ?_⟩
      · rw [removed hr, ho]
        exact congrArg _ (claimGone_of_some (s := u) rfl ha)
      · rw [dropped hr hatt, ho]
        exact congrArg _ (claimGone_of_some (s := raise .txFail u) (hraise.own_eq (by decide) b) ha)
    · intro rolled
      refine ⟨fun hr => ?_, fun hr hatt => ?_⟩
      · obtain ⟨t, v, run, rest⟩ := listWithdrawn_spec (s := u) hq
        refine ⟨t, v, ?_, rest⟩
        rw [removed hr, ho]
        exact congrArg _ run
      · obtain ⟨t, run, rest⟩ := listDropped_spec (s := u) hq
        refine ⟨t, ?_, rest⟩
        rw [dropped hr hatt, ho]
        exact congrArg _ run
  · rcases Bool.eq_false_or_eq_true x.removal with hr' | hr'
    · rw [removed hr', endSequence_of_done (by rwa [hremovedSeq]) (hremovedQueue.ofSequence hdone)]
      exact ⟨_, rfl, (stationReset_spec _).of_keeps (clears.trans (reportRemoved_keeps _ _)) (by decide) (by decide)
        (by decide) (by decide)⟩
    · have hatt : 2 ≤ x.attempts := hfate.resolve_left (by rw [hr']; exact Bool.false_ne_true)
      rw [dropped hr' hatt, endSequence_of_done (by rwa [hdroppedSeq]) (hdroppedQueue.ofSequence hdone)]
      exact ⟨_, rfl, (stationReset_spec _).of_keeps ((clears.trans (hraise.mono (by decide))).trans
        ((reportDropped_keeps _ _).mono (by decide))) (by decide) (by decide) (by decide) (by decide)⟩

end Sys2Proof.Machine
end

section
/-! The moves of the engine up to its next grant, and the two rows that ask for it (R116 to R126). -/
namespace Sys2Proof.Machine

/-! ### Quiet moves -/

/-- `n` quiet moves of the engine lead from `s` to `v`. -/
def QuietTo : Nat → State → State → Prop
  | 0, s, v => s = v
  | n + 1, s, v => ∃ t, engineMove s = .quiet t ∧ QuietTo n t v

theorem QuietTo.refl (s : State) : QuietTo 0 s s := rfl

theorem QuietTo.trans {m n : Nat} {s t v : State} (h : QuietTo m s t) (h' : QuietTo n t v) : QuietTo (m + n) s v := by
  induction m generalizing s with
  | zero =>
    obtain rfl : s = t := h
    rwa [Nat.zero_add]
  | succ m ih =>
    obtain ⟨u, hu, hut⟩ := h
    rw [Nat.add_right_comm]
    exact ⟨u, hu, ih hut⟩

theorem QuietTo.one {s t : State} (h : engineMove s = .quiet t) : QuietTo 1 s t := ⟨t, h, rfl⟩

/-- What a move gives a row that asks for a grant of one kind. -/
def Move.grantOf (ranked : Bool) : Move → Option State
  | .quiet _ => none
  | .granted r s => if r = ranked then some s else none
  | .stopped r s => if r = ranked then some s else none
  | .ended => none

/-- The engine does not pass this state by a quiet move. -/
def State.decides (v : State) : Prop := ∀ t, engineMove v ≠ .quiet t

theorem toGrant_of_quietTo {n m : Nat} {s v : State} (ranked : Bool) (h : QuietTo n s v) (hv : v.decides) (hn : n < m) :
    toGrant ranked m s = (engineMove v).grantOf ranked := by
  obtain ⟨m, rfl⟩ : ∃ k, m = k + 1 := ⟨m - 1, by omega⟩
  induction n generalizing s m with
  | zero =>
    obtain rfl : s = v := h
    rw [toGrant]
    cases he : engineMove s with
    | quiet t => exact absurd he (hv t)
    | granted r t => rfl
    | stopped r t => rfl
    | ended => rfl
  | succ n ih =>
    obtain ⟨t, ht, htv⟩ := h
    obtain ⟨m, rfl⟩ : ∃ k, m = k + 1 := ⟨m - 1, by omega⟩
    rw [toGrant, ht]
    exact ih htv m (by omega)

/-! ### The rows -/

/-- The row asks the engine for its next grant of one kind. -/
def AsksFor (c : Instr) (ranked : Bool) : Prop :=
  ∀ s : State, exec c s = .next ((toGrant ranked movesBound (settle s)).getD (settle s))

theorem asksFor_dataGrant : AsksFor .dataGrant true := fun _ => rfl

theorem asksFor_fallbackGrant : AsksFor .fallbackGrant false := fun _ => rfl

/-- A row does what the first move that is not quiet gives it. -/
theorem AsksFor.exec_of_quietTo {c : Instr} {ranked : Bool} (hc : AsksFor c ranked) {n : Nat} {s v : State}
    (hagenda : s.agenda = []) (h : QuietTo n s v) (hv : v.decides) (hn : n < movesBound) :
    exec c s = .next (((engineMove v).grantOf ranked).getD s) := by
  rw [hc, settle_of_empty hagenda, toGrant_of_quietTo ranked h hv hn]

theorem AsksFor.exec_of_grant {c : Instr} {ranked : Bool} (hc : AsksFor c ranked) {n : Nat} {s v t : State}
    (hagenda : s.agenda = []) (h : QuietTo n s v) (ht : (engineMove v).grantOf ranked = some t) (hn : n < movesBound) :
    exec c s = .next t := by
  have hv : v.decides := fun u hu => by
    rw [hu] at ht
    cases ht
  rw [hc.exec_of_quietTo hagenda h hv hn, ht]
  rfl

/-! ### Passing over candidates and slots -/

theorem setFlight_self {s : State} {f : Flight} (h : s.flight = some f) : s.setFlight (some f) = s := by
  rw [← h]
  rfl

theorem quietTo_serve {s : State} {f : Flight} {d : Direction} {skipped rest : List Ranked} (hf : s.flight = some f)
    (hst : f.stage = .serve d (skipped ++ rest)) (hskip : ∀ x ∈ skipped, layRanked (f.grids.at d) d x = none) :
    QuietTo skipped.length s (s.setFlight (some { f with stage := .serve d rest })) := by
  induction skipped generalizing s f with
  | nil =>
    have hself : ({ f with stage := .serve d rest } : Flight) = f := by rw [← List.nil_append rest, ← hst]
    rw [hself, setFlight_self hf]
    rfl
  | cons x skipped ih =>
    exact ⟨_, engineMove_serve_pass hf hst (hskip x List.mem_cons_self),
      ih (f := { f with stage := .serve d (skipped ++ rest) }) rfl rfl fun y hy => hskip y (List.mem_cons_of_mem x hy)⟩

theorem quietTo_walk {s : State} {f : Flight} {d : Direction} {skipped rest : List Slot} (hf : s.flight = some f)
    (hst : f.stage = .walk d (skipped ++ rest)) (hskip : f.noFallback d skipped) :
    QuietTo skipped.length s (s.setFlight (some { f with stage := .walk d rest })) := by
  induction skipped generalizing s f with
  | nil =>
    have hself : ({ f with stage := .walk d rest } : Flight) = f := by rw [← List.nil_append rest, ← hst]
    rw [hself, setFlight_self hf]
    rfl
  | cons j skipped ih =>
    exact ⟨_, engineMove_walk_pass hf hst (hskip j List.mem_cons_self),
      ih (f := { f with stage := .walk d (skipped ++ rest) }) rfl rfl fun i hi => hskip i (List.mem_cons_of_mem j hi)⟩

/-- Serving that finds no block leads to the walk from the fallback pointer. -/
theorem quietTo_walk_of_unserved {s : State} {f : Flight} {d : Direction} {left : List Ranked} (hf : s.flight = some f)
    (hst : f.stage = .serve d left) (hskip : ∀ x ∈ left, layRanked (f.grids.at d) d x = none) :
    QuietTo (left.length + 1) s (s.setFlight (some { f with stage := .walk d (slotsFrom (s.fallbackPtr.at d)) })) :=
  (quietTo_serve (rest := []) hf (by rw [hst, List.append_nil]) hskip).trans
    (.one (engineMove_serve_nil (f := { f with stage := .serve d [] }) rfl rfl))

/-- A DL walk that finds no unit leads to the ranking of UL. -/
theorem quietTo_rank_of_walked {s : State} {f : Flight} {left : List Slot} (hf : s.flight = some f)
    (hst : f.stage = .walk .dl left) (hskip : f.noFallback .dl left) :
    QuietTo (left.length + 1) s (s.setFlight (some { f with stage := .rank .ul })) :=
  (quietTo_walk (rest := []) hf (by rw [hst, List.append_nil]) hskip).trans
    (.one (engineMove_walk_nil_dl (f := { f with stage := .walk .dl [] }) rfl rfl))

/-- A UL walk that finds no unit leads to the end of placing. -/
theorem quietTo_ended_of_walked {s : State} {f : Flight} {left : List Slot} (hf : s.flight = some f)
    (hst : f.stage = .walk .ul left) (hskip : f.noFallback .ul left) :
    QuietTo (left.length + 1) s (s.setFlight (some { f with stage := .ended })) :=
  (quietTo_walk (rest := []) hf (by rw [hst, List.append_nil]) hskip).trans
    (.one (engineMove_walk_nil_ul (f := { f with stage := .walk .ul [] }) rfl rfl))

/-! ### The moves left -/

/-- A bound on the moves still to come, given the number of ranked candidates of each direction: per direction one ranking,
one move per ranked candidate and per slot examined, and the changes of stage. -/
def Stage.movesLeft (ranked : Direction → Nat) : Stage → Nat
  | .rank .dl => ranked .dl + 99 + (ranked .ul + 99)
  | .rank .ul => ranked .ul + 99
  | .serve .dl left => left.length + 98 + (ranked .ul + 99)
  | .serve .ul left => left.length + 98
  | .walk .dl left => left.length + 1 + (ranked .ul + 99)
  | .walk .ul left => left.length + 1
  | .ended => 0

/-- A bound on the moves still to come in a placement. -/
def Flight.movesLeft (p : Profile) (f : Flight) : Nat := f.stage.movesLeft fun d => (f.ranked p d).length

theorem Stage.movesLeft_rank (k : Direction → Nat) (d : Direction) (left : List Ranked) (h : left.length = k d) :
    (Stage.serve d left).movesLeft k < (Stage.rank d).movesLeft k := by
  cases d <;> simp only [Stage.movesLeft, h] <;> omega

theorem Stage.movesLeft_serve_nil (k : Direction → Nat) (d : Direction) (ptr : Slot) :
    (Stage.walk d (slotsFrom ptr)).movesLeft k < (Stage.serve d []).movesLeft k := by
  have hslots : (slotsFrom ptr).length = 96 := by simp [slotsFrom, allSlots]
  cases d <;> simp [Stage.movesLeft, hslots]

theorem Stage.movesLeft_serve (k : Direction → Nat) (d : Direction) (r : Ranked) (left : List Ranked) :
    (Stage.serve d left).movesLeft k < (Stage.serve d (r :: left)).movesLeft k := by
  cases d <;> simp [Stage.movesLeft]

theorem Stage.movesLeft_walk (k : Direction → Nat) (d : Direction) (i : Slot) (left : List Slot) :
    (Stage.walk d left).movesLeft k < (Stage.walk d (i :: left)).movesLeft k := by
  cases d <;> simp [Stage.movesLeft]

theorem Stage.movesLeft_pos (k : Direction → Nat) {st : Stage} (h : st ≠ .ended) : 0 < st.movesLeft k := by
  cases st with
  | rank d => cases d <;> simp [Stage.movesLeft]
  | serve d left => cases d <;> simp [Stage.movesLeft]
  | walk d left => cases d <;> simp [Stage.movesLeft]
  | ended => exact absurd rfl h

/-- Each move leaves fewer. -/
theorem Flight.Moves.movesLeft_lt {p : Profile} {f g : Flight} (h : f.Moves p g) : g.movesLeft p < f.movesLeft p := by
  have hranked : g.ranked p = f.ranked p := by cases h <;> rfl
  rw [Flight.movesLeft, Flight.movesLeft, hranked]
  cases h with
  | rank hst => rw [hst]; exact Stage.movesLeft_rank _ _ _ rfl
  | served ptr hst => rw [hst]; exact Stage.movesLeft_serve_nil _ _ ptr
  | passed hst => rw [hst]; exact Stage.movesLeft_serve _ _ _ _
  | served_grant hst hlay => rw [hst]; exact Stage.movesLeft_serve _ _ _ _
  | uplink hst => rw [hst]; simp [Stage.movesLeft]
  | examined hst => rw [hst]; exact Stage.movesLeft_walk _ _ _ _
  | walk_grant hst hc hlay => rw [hst]; exact Stage.movesLeft_walk _ _ _ _
  | ended hst => exact Stage.movesLeft_pos _ hst

/-- A bound on the moves the engine still takes. -/
def State.movesLeft (s : State) : Nat := s.flight.elim 0 (·.movesLeft s.profile)

theorem State.movesLeft_eq {s : State} {f : Flight} (h : s.flight = some f) : s.movesLeft = f.movesLeft s.profile := by
  rw [State.movesLeft, h]
  rfl

theorem movesLeft_lt {s t : State} (e : (engineMove s).state = some t) : t.movesLeft < s.movesLeft := by
  cases hf : s.flight with
  | none =>
    rw [engineMove_of_none hf] at e
    cases e
  | some f =>
    obtain ⟨g, hg, hm⟩ := flight_moves hf e
    rw [State.movesLeft_eq hf, State.movesLeft_eq hg, (engineMove_keeps e).profile_eq (by decide)]
    exact hm.movesLeft_lt

theorem QuietTo.movesLeft_le {n : Nat} {s v : State} (h : QuietTo n s v) : n + v.movesLeft ≤ s.movesLeft := by
  induction n generalizing s with
  | zero =>
    obtain rfl : s = v := h
    omega
  | succ n ih =>
    obtain ⟨t, ht, htv⟩ := h
    have hlt := movesLeft_lt (s := s) (t := t) (by rw [ht]; rfl)
    have := ih htv
    omega

/-- Quiet moves lead to a state where the engine grants, stops or has ended. -/
theorem exists_quietTo_decides (s : State) : ∃ n v, QuietTo n s v ∧ v.decides := by
  induction hm : s.movesLeft using Nat.strong_induction_on generalizing s with
  | _ m ih =>
    by_cases h : s.decides
    · exact ⟨0, s, rfl, h⟩
    · simp only [State.decides, not_forall, not_not] at h
      obtain ⟨t, ht⟩ := h
      have hlt := movesLeft_lt (s := s) (t := t) (by rw [ht]; rfl)
      obtain ⟨n, v, hv, hdec⟩ := ih _ (hm ▸ hlt) t rfl
      exact ⟨n + 1, v, ⟨t, ht, hv⟩, hdec⟩

theorem ranked_length_le {f : Flight} {p : Profile} {k : Nat} (h : f.placed k) (d : Direction) :
    (f.ranked p d).length ≤ 96 := by
  obtain ⟨-, -, -, -, -, hcands⟩ := h
  have hnodup := ranked_slots_nodup p (hcands d).2
  simpa using hnodup.length_le_card

/-- The laws of a placement bound its moves by fewer than the fuel. -/
theorem movesLeft_lt_bound {s : State} (h : GridLaw s) : s.movesLeft < movesBound := by
  rw [movesBound]
  cases hf : s.flight with
  | none =>
    rw [State.movesLeft, hf]
    exact Nat.zero_lt_succ 399
  | some f =>
    obtain ⟨hp, hs⟩ := (gridLaw_iff s).mp h f hf
    rw [State.movesLeft_eq hf, Flight.movesLeft]
    have hdl := ranked_length_le (p := s.profile) hp .dl
    have hul := ranked_length_le (p := s.profile) hp .ul
    unfold Flight.staged at hs
    cases hst : f.stage with
    | rank d => cases d <;> simp only [Stage.movesLeft] <;> omega
    | serve d left =>
      rw [hst] at hs
      have hleft : left.length ≤ 96 := by simpa using hs.2.1.length_le_card
      cases d <;> simp only [Stage.movesLeft] <;> omega
    | walk d left =>
      rw [hst] at hs
      have hleft : left.length ≤ 96 := by simpa using hs.2.1.length_le_card
      cases d <;> simp only [Stage.movesLeft] <;> omega
    | ended => simp [Stage.movesLeft]

/-! ### Passing stages -/

theorem grantOf_state {r : Bool} {m : Move} {t : State} (h : m.grantOf r = some t) : m.state = some t := by
  cases m with
  | quiet s => cases h
  | granted k s =>
    rw [Move.grantOf] at h
    split at h
    · exact h
    · cases h
  | stopped k s =>
    rw [Move.grantOf] at h
    split at h
    · exact h
    · cases h
  | ended => cases h

/-- What a row does is not changed by quiet moves, and a grant changes the state. -/
theorem AsksFor.passesTo {c : Instr} {ranked : Bool} (hc : AsksFor c ranked) {n : Nat} {s u : State} (hs : s.agenda = [])
    (hu : u.agenda = []) (hlaw : GridLaw s) (h : QuietTo n s u) : PassesTo c s u := by
  obtain ⟨m, v, hv, hdec⟩ := exists_quietTo_decides u
  have hbound := movesLeft_lt_bound hlaw
  have hsu := h.movesLeft_le
  have huv := hv.movesLeft_le
  have es := hc.exec_of_quietTo hs (h.trans hv) hdec (by omega)
  have eu := hc.exec_of_quietTo hu hv hdec (by omega)
  cases hg : (engineMove v).grantOf ranked with
  | none =>
    rw [hg] at es eu
    exact ⟨fun _ => es, fun hne => absurd eu hne⟩
  | some t =>
    rw [hg] at es eu
    have hlt := movesLeft_lt (grantOf_state hg)
    refine ⟨fun he => ?_, fun _ => es.trans eu.symm⟩
    have htu : t = u := Host.Outcome.next.inj (eu.symm.trans he)
    rw [htu] at hlt
    omega

theorem AsksFor.exec_of_ended {c : Instr} {ranked : Bool} (hc : AsksFor c ranked) {n : Nat} {s v : State} (hs : s.agenda = [])
    (h : QuietTo n s v) (hv : engineMove v = .ended) (hn : n < movesBound) : exec c s = .next s := by
  have hdec : v.decides := fun t ht => by
    rw [hv] at ht
    cases ht
  rw [hc.exec_of_quietTo hs h hdec hn, hv]
  rfl

/-! ### Ranking -/

theorem raiseArithmetic_raised (c d : Condition) (s : State) (hd : d ≠ .txFail) :
    (raiseArithmetic c s).raised d = true ↔ s.raised d = true ∨ d = c := by
  by_cases h : d = c
  · subst h
    exact ⟨fun _ => .inr rfl, fun _ => raise_raised _ _ _ (.inl rfl)⟩
  · rw [raiseArithmetic, raised_raise_of_ne h hd]
    exact ⟨fun h => .inl h, fun h' => h'.resolve_right h⟩

theorem flightBit_getLsbD {c d : Condition} (hd : d.num < 4) : (1#4 <<< c.num).getLsbD d.num = decide (d = c) := by
  cases d <;> first | exact absurd hd (by decide) | (cases c <;> rfl)

theorem raiseArithmetic_inFlight (c d : Condition) (s : State) (hd : d.num < 4) :
    (raiseArithmetic c s).inFlight.getLsbD d.num = true ↔ s.inFlight.getLsbD d.num = true ∨ d = c := by
  rw [raiseArithmetic, (raise_keeps _ _).inFlight_eq (by decide), setInFlight_inFlight, BitVec.getLsbD_or, flightBit_getLsbD hd,
    Bool.or_eq_true, decide_eq_true_iff]

theorem foldl_raiseArithmetic (cs : List Condition) (s : State) :
    (∀ d, d ≠ .txFail → ((cs.foldl (fun s c => raiseArithmetic c s) s).raised d = true ↔ s.raised d = true ∨ d ∈ cs)) ∧
    ∀ d : Condition, d.num < 4 → ((cs.foldl (fun s c => raiseArithmetic c s) s).inFlight.getLsbD d.num = true ↔
      s.inFlight.getLsbD d.num = true ∨ d ∈ cs) := by
  induction cs generalizing s with
  | nil => simp
  | cons c cs ih =>
    obtain ⟨hraised, hset⟩ := ih (raiseArithmetic c s)
    refine ⟨fun d hd => ?_, fun d hd => ?_⟩
    · rw [List.foldl_cons, hraised d hd, raiseArithmetic_raised c d s hd, List.mem_cons, or_assoc]
    · rw [List.foldl_cons, hset d hd, raiseArithmetic_inFlight c d s hd, List.mem_cons, or_assoc]

/-- The state after a direction is ranked. -/
def rankDirection (f : Flight) (d : Direction) (s : State) : State :=
  (raiseMetrics f d s).setFlight (some { f with stage := .serve d (f.ranked s.profile d) })

theorem rankDirection_keeps (f : Flight) (d : Direction) (s : State) :
    Keeps [.flight, .flags, .txQueue, .inFlight] s (rankDirection f d s) :=
  ((raiseMetrics_keeps f d s).mono (by decide)).andThen (setFlight_keeps _ _) (by decide)

theorem rankedAs_rankDirection (f : Flight) (d : Direction) (s : State) : RankedAs s f d (rankDirection f d s) := by
  obtain ⟨hraised, hset⟩ := foldl_raiseArithmetic (f.metricConditions s.profile d) s
  exact ⟨rfl, hraised, hset, rankDirection_keeps f d s⟩

theorem quietTo_ranked {s : State} {f : Flight} {d : Direction} (hf : s.flight = some f) (hst : f.stage = .rank d) :
    QuietTo 1 s (rankDirection f d s) := .one (engineMove_rank hf hst)

/-- How either row looks for its grant. -/
theorem stagesPass {c : Instr} {ranked : Bool} (hc : AsksFor c ranked) : StagesPass c := by
  refine ⟨fun s hs hf => hc.exec_of_ended hs (.refl s) (engineMove_of_none hf) (by decide), fun s f hs hf hlaw => ?_⟩
  refine ⟨fun d hst => ⟨rankDirection f d s, rankedAs_rankDirection f d s, ?_⟩, fun d left hst hnone => ?_,
    fun left hst hnone => ?_, fun left hst hnone => ?_, fun hst => ?_⟩
  · exact hc.passesTo hs (((rankDirection_keeps f d s).agenda_eq (by decide)).trans hs) hlaw (quietTo_ranked hf hst)
  · exact hc.passesTo hs hs hlaw (quietTo_walk_of_unserved hf hst hnone)
  · exact hc.passesTo hs hs hlaw (quietTo_rank_of_walked hf hst hnone)
  · have hquiet := quietTo_ended_of_walked hf hst hnone
    have hle := hquiet.movesLeft_le
    have hbound := movesLeft_lt_bound hlaw
    exact hc.exec_of_ended hs hquiet (engineMove_ended (s := s.setFlight _) rfl rfl) (by omega)
  · exact hc.exec_of_ended hs (.refl s) (engineMove_ended hf hst) (by decide)

end Sys2Proof.Machine
end

section
/-! DATA_GRANT and FALLBACK_GRANT (R121 to R126). -/
namespace Sys2Proof.Machine

/-! ### Where the engine stands after passing over some -/

section
variable {s : State} {f : Flight} {d : Direction} {r : Ranked} {left : List Ranked} {l : Lay}

/-- Serving a candidate that finds a block gives DATA_GRANT its grant or the stop, and FALLBACK_GRANT nothing. -/
theorem grantOf_serve (hf : s.flight = some f) (hst : f.stage = .serve d (r :: left))
    (hlay : layRanked (f.grids.at d) d r = some l) :
    (∃ t, (engineMove s).grantOf true = some t) ∧ (engineMove s).grantOf false = none ∧ s.decides := by
  rcases Nat.lt_or_ge s.records.length 384 with hroom | hfull
  · have e := engineMove_serve_grant hf hst hlay hroom
    exact ⟨⟨_, by rw [e]; rfl⟩, by rw [e]; rfl, fun t ht => by rw [e] at ht; cases ht⟩
  · have e := engineMove_serve_full hf hst hlay hfull
    exact ⟨⟨_, by rw [e]; rfl⟩, by rw [e]; rfl, fun t ht => by rw [e] at ht; cases ht⟩

variable {i : Slot} {slots : List Slot} {c : Candidate}

/-- A slot of the walk whose stale candidate finds a unit gives FALLBACK_GRANT its grant or the stop, and DATA_GRANT nothing. -/
theorem grantOf_walk (hf : s.flight = some f) (hst : f.stage = .walk d (i :: slots))
    (hc : (f.candidates.at d).find? (fun c => decide (c.slot = i) && c.stale) = some c)
    (hlay : layFallback (f.grids.at d) f.bands c = some l) :
    (∃ t, (engineMove s).grantOf false = some t) ∧ (engineMove s).grantOf true = none ∧ s.decides := by
  rcases Nat.lt_or_ge s.records.length 384 with hroom | hfull
  · have e := engineMove_walk_grant hf hst hc hlay hroom
    exact ⟨⟨_, by rw [e]; rfl⟩, by rw [e]; rfl, fun t ht => by rw [e] at ht; cases ht⟩
  · have e := engineMove_walk_full hf hst hc hlay hfull
    exact ⟨⟨_, by rw [e]; rfl⟩, by rw [e]; rfl, fun t ht => by rw [e] at ht; cases ht⟩

end

theorem makeGrant_of_held {f : Flight} {d : Direction} {c : Candidate} {l : Lay} (next : Stage) {s : State}
    (h : s.slotOf c.tag = some c.slot) : makeGrant f d c l next s =
      (recordGrant f.target (l.grant f.target d (s.profile.orders.at d) c) l.bits s).setFlight
        (some (f.laid d (s.profile.orders.at d) c l next)) := by
  rw [makeGrant]
  exact congrArg (State.setFlight · _) (if_pos h)

theorem makeGrant_of_released {f : Flight} {d : Direction} {c : Candidate} {l : Lay} (next : Stage) {s : State}
    (h : s.slotOf c.tag ≠ some c.slot) : makeGrant f d c l next s =
      s.setFlight (some (f.laid d (s.profile.orders.at d) c l next)) := by
  rw [makeGrant]
  exact congrArg (State.setFlight · _) (if_neg h)

/-- Two states from which quiet moves lead to one that grants give a row the same. -/
theorem AsksFor.exec_eq {c : Instr} {ranked : Bool} (hc : AsksFor c ranked) {m n : Nat} {s u v : State} (hs : s.agenda = [])
    (hu : u.agenda = []) (h : QuietTo m s v) (h' : QuietTo n u v) (hv : ∃ t, (engineMove v).grantOf ranked = some t)
    (hm : m < movesBound) (hn : n < movesBound) : exec c s = exec c u := by
  obtain ⟨t, ht⟩ := hv
  rw [hc.exec_of_grant hs h ht hm, hc.exec_of_grant hu h' ht hn]

/-- Settles O37: the grant of the next ranked candidate that finds a block, and the stages before it. -/
theorem dataGrantMade : Obligations.DataGrantMade := by
  refine ⟨fun s f d skipped left r l hs hf hst hlen hskip hlay => ?_,
    fun s f d skipped left r l hs hf hst hranked hlen hskip hlay => ?_,
    fun s f walked skipped left r l hs hf hst hwalked hnone hranked hlen hskip hlay => ?_, stagesPass asksFor_dataGrant⟩
  · intro c bits first o grant laid
    have hquiet := quietTo_serve hf hst hskip
    obtain ⟨-, hother, hdec⟩ := grantOf_serve (s := s.setFlight (some { f with stage := .serve d (r :: left) })) rfl rfl hlay
    have hfuel : skipped.length < movesBound := hlen.trans_lt (by decide)
    refine ⟨fun hfull => ?_, fun hroom hslot => ?_, fun hroom hslot => ?_, ?_⟩
    · have e := engineMove_serve_full (s := s.setFlight (some { f with stage := .serve d (r :: left) })) rfl rfl hlay hfull
      exact asksFor_dataGrant.exec_of_grant hs hquiet (by rw [e]; rfl) hfuel
    · have e := engineMove_serve_grant (s := s.setFlight (some { f with stage := .serve d (r :: left) })) rfl rfl hlay hroom
      rw [makeGrant_of_held (c := r.cand) (s := s.setFlight (some { f with stage := .serve d (r :: left) })) _ hslot] at e
      exact asksFor_dataGrant.exec_of_grant hs hquiet (by rw [e]; rfl) hfuel
    · have e := engineMove_serve_grant (s := s.setFlight (some { f with stage := .serve d (r :: left) })) rfl rfl hlay hroom
      rw [makeGrant_of_released (c := r.cand) (s := s.setFlight (some { f with stage := .serve d (r :: left) })) _ hslot] at e
      exact asksFor_dataGrant.exec_of_grant hs hquiet (by rw [e]; rfl) hfuel
    · rw [asksFor_fallbackGrant.exec_of_quietTo hs hquiet hdec hfuel, hother]
      rfl
  · have hu := rankedAs_rankDirection f d s
    have hflight : (rankDirection f d s).flight = some { f with stage := .serve d (skipped ++ r :: left) } := by
      rw [← hranked]
      rfl
    have hquiet := quietTo_serve hflight rfl hskip
    obtain ⟨hgrant, -⟩ := grantOf_serve
      (s := (rankDirection f d s).setFlight (some { f with stage := .serve d (r :: left) })) rfl rfl hlay
    have hfuel : 1 + skipped.length < movesBound := by rw [movesBound]; omega
    exact ⟨_, asksFor_dataGrant.exec_eq hs ((hu.2.2.2.agenda_eq (by decide)).trans hs) ((quietTo_ranked hf hst).trans hquiet)
      hquiet hgrant hfuel (by omega), hu, hflight⟩
  · have hwalk := quietTo_rank_of_walked hf hst hnone
    have hrank := quietTo_ranked (s := s.setFlight (some { f with stage := .rank .ul })) (d := .ul) rfl rfl
    have hflight : (rankDirection { f with stage := .rank .ul } .ul (s.setFlight (some { f with stage := .rank .ul }))).flight =
        some { f with stage := .serve .ul (skipped ++ r :: left) } := by
      rw [← hranked]
      rfl
    have hquiet := quietTo_serve hflight rfl hskip
    obtain ⟨hgrant, -⟩ := grantOf_serve (s := (rankDirection { f with stage := .rank .ul } .ul
      (s.setFlight (some { f with stage := .rank .ul }))).setFlight (some { f with stage := .serve .ul (r :: left) }))
      rfl rfl hlay
    have hfuel : walked.length + 1 + (1 + skipped.length) < movesBound := by rw [movesBound]; omega
    exact asksFor_dataGrant.exec_eq hs (u := s.setFlight _) hs (hwalk.trans (hrank.trans hquiet)) (hrank.trans hquiet) hgrant
      hfuel (by omega)

/-! ### FALLBACK_GRANT -/

/-- A block of one unit is that unit. -/
theorem covered_one (o : VisitOrder) (base : Nat) (t : Interval) (i : Slot) :
    covered o base 1 (startOffset t i 1) 1 = [base] := by
  have hvisit : visited o 1 (startOffset t i 1) 0 = 0 := by
    have hlt : visited o 1 (startOffset t i 1) 0 < 1 := by cases o <;> simp [visited, startOffset, Nat.mod_one]
    omega
  simp [covered, hvisit]

/-- A lay of one unit at quality 1 (R124, R125). -/
def unitLay (base : Nat) : Lay := { band := bandOf base, quality := 1, base := base, size := 1, count := 1 }

theorem unitLay_grant (base : Nat) (t : Interval) (d : Direction) (o : VisitOrder) (c : Candidate) :
    (unitLay base).grant t d o c = { dir := d, slot := c.slot, tag := c.tag, band := bandOf base, start := Fin.ofNat 48 base
                                     size := 1, count := 1, order := o, reach := c.reach, quality := 1 } := by
  have hoffset : base + startOffset t c.slot 1 = base := by rw [startOffset, Nat.mod_one, Nat.add_zero]
  rw [Lay.grant]
  dsimp only [unitLay]
  rw [hoffset]

theorem unitLay_bits (base : Nat) : (unitLay base).bits = 12 := rfl

/-- The placement after a fallback grant. -/
theorem laid_unitLay (f : Flight) (d : Direction) (c : Candidate) (base : Nat) (o : VisitOrder) (next : Stage) :
    f.laid d o c (unitLay base) next = { f with
      grids := f.grids.put d (occupy (f.grids.at d) [base])
      grants := f.grants ++ [(unitLay base).grant f.target d o c]
      stage := next } := by
  have hunits : covered o (unitLay base).base (unitLay base).size (startOffset f.target c.slot (unitLay base).size)
      (unitLay base).count = [base] := covered_one o base f.target c.slot
  rw [Flight.laid, hunits]

/-- Settles O38: the unit of the next stale candidate that finds one, and the stages before it. -/
theorem fallbackGrantMade : Obligations.FallbackGrantMade := by
  refine ⟨fun s f d skipped left i c l hs hf hst hlen hskip hc hlay => ?_,
    fun s f d unplaced skipped left i c l hs hf hst hlen hnone hslots hskip hc hlay => ?_, stagesPass asksFor_fallbackGrant⟩
  · obtain ⟨hl, hlt, hoffer, hfree, hlow⟩ := layFallback_eq_some hlay
    obtain ⟨base, rfl⟩ : ∃ base, l = unitLay base := ⟨l.base, hl⟩
    intro o grant laid
    have hquiet := quietTo_walk hf hst hskip
    have hfuel : skipped.length < movesBound := hlen.trans_lt (by decide)
    obtain ⟨-, hother, hdec⟩ := grantOf_walk (s := s.setFlight (some { f with stage := .walk d (i :: left) })) rfl rfl hc hlay
    refine ⟨fun hfull => ?_, fun hroom hslot => ?_, fun hroom hslot => ?_, ⟨hlt, hfree, rfl, hoffer, hlow⟩, ?_⟩
    · have e := engineMove_walk_full (s := s.setFlight (some { f with stage := .walk d (i :: left) })) rfl rfl hc hlay hfull
      exact asksFor_fallbackGrant.exec_of_grant hs hquiet (by rw [e]; rfl) hfuel
    · have e := engineMove_walk_grant (s := s.setFlight (some { f with stage := .walk d (i :: left) })) rfl rfl hc hlay hroom
      rw [makeGrant_of_held (c := c) (s := s.setFlight (some { f with stage := .walk d (i :: left) })) _ hslot, laid_unitLay,
        unitLay_bits, unitLay_grant] at e
      exact asksFor_fallbackGrant.exec_of_grant hs hquiet (by rw [e]; rfl) hfuel
    · have e := engineMove_walk_grant (s := s.setFlight (some { f with stage := .walk d (i :: left) })) rfl rfl hc hlay hroom
      rw [makeGrant_of_released (c := c) (s := s.setFlight (some { f with stage := .walk d (i :: left) })) _ hslot,
        laid_unitLay, unitLay_grant] at e
      exact asksFor_fallbackGrant.exec_of_grant hs hquiet (by rw [e]; rfl) hfuel
    · rw [asksFor_dataGrant.exec_of_quietTo hs hquiet hdec hfuel, hother]
      rfl
  · have hunserved := quietTo_walk_of_unserved hf hst hnone
    rw [hslots] at hunserved ⊢
    have hquiet := quietTo_walk (s := s.setFlight (some { f with stage := .walk d (skipped ++ i :: left) })) rfl rfl hskip
    obtain ⟨hgrant, -⟩ := grantOf_walk (s := (s.setFlight (some { f with stage := .walk d (skipped ++ i :: left) })).setFlight
      (some { f with stage := .walk d (i :: left) })) rfl rfl hc hlay
    have hskipped : skipped.length ≤ 96 := by
      have hlen := congrArg List.length hslots
      simp [slotsFrom, allSlots] at hlen
      omega
    have hfuel : unplaced.length + 1 + skipped.length < movesBound := by rw [movesBound]; omega
    exact asksFor_fallbackGrant.exec_eq hs (u := s.setFlight _) hs (hunserved.trans hquiet) hquiet hgrant hfuel (by omega)

end Sys2Proof.Machine
end

section
/-! PLACEMENT_BEGIN: snapshot, grids, chosen entries (R104, R113 to R116). -/
namespace Sys2Proof.Machine

/-- A stale candidate of either direction. -/
def State.anyStale (s : State) : Bool := (s.candidates .dl ++ s.candidates .ul).any (·.stale)

/-- The state after the test for stale candidates (R104). -/
def State.tested (s : State) : State :=
  if s.anyStale then raiseArithmetic .stale (s.setInFlight 0) else s.setInFlight 0

/-- The placement for interval `t` as it begins. -/
def State.newFlight (s : State) (t : Interval) : Flight where
  target := t
  candidates := ⟨s.candidates .dl, s.candidates .ul⟩
  bands := s.bandCopies
  grids := freshGrids s.profile.soundingUnits
  ranges := s.rangeChoice.filterMap fun i => (s.ctx i).tag
  sounds := (s.soundChoice.chosen.zip soundingUnits).filterMap fun x => (s.ctx x.1).tag.map fun g => (g, x.2)
  stage := .rank .dl
  grants := []

theorem anyStale_iff (s : State) : s.anyStale = true ↔ ∃ d, ∃ c ∈ s.candidates d, c.stale = true := by
  simp only [State.anyStale, List.any_append, Bool.or_eq_true, List.any_eq_true]
  constructor
  · rintro (h | h)
    · exact ⟨.dl, h⟩
    · exact ⟨.ul, h⟩
  · rintro ⟨d, h⟩
    cases d with
    | dl => exact .inl h
    | ul => exact .inr h

theorem tested_keeps (s : State) : Keeps [.inFlight, .flags, .txQueue] s s.tested := by
  unfold State.tested
  split
  · exact ((setInFlight_keeps s 0).mono (by decide)).andThen (raiseArithmetic_keeps _ _) (by decide)
  · exact (setInFlight_keeps s 0).mono (by decide)

section
variable {l : List Field} {s t : State} (hk : Keeps l s t) (hc : .contexts ∉ l) (hp : .profile ∉ l)
include hk hc

theorem rangeChoice_of_keeps : t.rangeChoice = s.rangeChoice := by
  simp only [State.rangeChoice, hk.ctx_eq hc]

include hp

theorem soundChoice_of_keeps (hr : .refreshPtr ∉ l) : t.soundChoice = s.soundChoice := by
  simp only [State.soundChoice, hk.ctx_eq hc, hk.profile_eq hp, hk.refreshPtr_eq hr]

end

/-- A placement begins: the choice reads nothing that the test writes. -/
theorem beginPlacement_eq (t : Interval) (s : State) : beginPlacement t s =
    ((s.tested.setContexts (Vector.ofFn fun i => (s.ctx i).chosen (s.rangeChoice.contains i)
      (s.soundChoice.chosen.contains i))).setRefreshPtr (refreshAfter s.soundChoice.third s.refreshPtr)).setFlight
      (some (s.newFlight t)) := by
  have hk := tested_keeps s
  have hrange := rangeChoice_of_keeps hk (by decide)
  have hsound := soundChoice_of_keeps hk (by decide) (by decide) (by decide)
  have hbegin : beginPlacement t s = (chooseEntries s.tested).2.setFlight (some
    { s.newFlight t with ranges := (chooseEntries s.tested).1.1, sounds := (chooseEntries s.tested).1.2 }) := rfl
  rw [hbegin, chooseEntries]
  dsimp only
  rw [hrange, hsound, hk.refreshPtr_eq (by decide)]
  simp only [hk.ctx_eq (by decide)]
  rfl

theorem candidates_of_keeps {l : List Field} {s t : State} (hk : Keeps l s t) (hc : .contexts ∉ l) (hp : .profile ∉ l)
    (d : Direction) : t.candidates d = s.candidates d := by
  have hcand : t.candidate d = s.candidate d := by
    funext i
    rw [State.candidate, hk.ctx_eq hc, hk.profile_eq hp]
    rfl
  rw [State.candidates, hcand]
  rfl

/-- Who is a candidate (R114). -/
theorem exists_candidate (s : State) (d : Direction) (i : Slot) : (∃ c ∈ s.candidates d, c.slot = i) ↔
    (s.ctx i).life = .active ∧ 0 < (s.ctx i).backlog.at d ∧ (s.ctx i).tag ≠ none := by
  constructor
  · rintro ⟨c, hc, rfl⟩
    obtain ⟨-, htag, hlife, hpos, -⟩ := candidate_eq_some (mem_candidates.mp hc)
    exact ⟨hlife, hpos, by rw [htag]; exact Option.some_ne_none _⟩
  · rintro ⟨hlife, hpos, htag⟩
    obtain ⟨g, hg⟩ := Option.ne_none_iff_exists'.mp htag
    have hcand : ∃ c, s.candidate d i = some c := by
      rw [State.candidate, hg]
      exact ⟨_, if_pos ⟨hlife, hpos⟩⟩
    obtain ⟨c, hc⟩ := hcand
    exact ⟨c, List.mem_filterMap.mpr ⟨i, mem_allSlots i, hc⟩, (candidate_eq_some hc).1⟩

theorem newFlight_candidates (s : State) (t : Interval) (d : Direction) : (s.newFlight t).candidates.at d = s.candidates d := by
  cases d <;> rfl

theorem tested_of_stale {s : State} (h : s.anyStale = true) : s.tested = raiseArithmetic .stale (s.setInFlight 0) := if_pos h

theorem tested_of_fresh {s : State} (h : s.anyStale = false) : s.tested = s.setInFlight 0 :=
  if_neg (by rw [h]; exact Bool.false_ne_true)

/-- Settles O35: the snapshot, the grids, the chosen entries, and STALE. -/
theorem placementBegins : Obligations.PlacementBegins := by
  intro s n later hagenda
  have run : exec .placementBegin s = .next (beginDue s) := by rw [exec, execPlacementBegin, settle_of_empty hagenda]
  refine ⟨fun h => ?_, fun hf hdue => ?_⟩
  · rw [run, beginDue]
    rcases h with hf | hdue
    · obtain ⟨f, hf⟩ := Option.ne_none_iff_exists'.mp hf
      rw [hf]
    · rw [hdue]
      cases s.flight <;> rfl
  obtain ⟨v, hv⟩ : ∃ v, v = s.setPlacementsDue later := ⟨_, rfl⟩
  have hvs : Keeps [.placementsDue] s v := by
    rw [hv]
    exact setPlacementsDue_keeps s later
  have hctx := hvs.ctx_eq (by decide)
  have hprofile : v.profile = s.profile := hvs.profile_eq (by decide)
  have hrange := rangeChoice_of_keeps hvs (by decide)
  have hsound := soundChoice_of_keeps hvs (by decide) (by decide) (by decide)
  have hrefresh : v.refreshPtr = s.refreshPtr := hvs.refreshPtr_eq (by decide)
  have hcands : ∀ d, (v.newFlight n).candidates.at d = s.candidates d := fun d =>
    (newFlight_candidates v n d).trans (candidates_of_keeps hvs (by decide) (by decide) d)
  have hkeep := beginPlacement_keeps n v
  have hdo : beginDue s = beginPlacement n v := by rw [beginDue, hf, hdue, hv]
  have ht := beginPlacement_eq n v
  have hstale : (∃ d, ∃ c ∈ (v.newFlight n).candidates.at d, c.stale = true) ↔ v.anyStale = true := by
    rw [anyStale_iff]
    simp only [newFlight_candidates]
  refine ⟨beginPlacement n v, v.newFlight n, run.trans (congrArg _ hdo), by rw [ht]; rfl, ?_, rfl, fun d i => ?_,
    fun d c hc => ?_, fun d => ?_, fun b => ?_, fun j => ?_, fun j => ?_, rfl, rfl, ?_, ?_, fun i => ?_, ?_, fun h => ?_,
    fun h => ?_, ?_⟩
  · rw [hkeep.placementsDue_eq (by decide), hv]
    rfl
  · rw [hcands]
    exact exists_candidate s d i
  · rw [hcands] at hc
    obtain ⟨-, htag, -, -, heq⟩ := candidate_eq_some (mem_candidates.mp hc)
    have hq : ∀ b : Band, c.q[b] = (s.ctx c.slot).quality b := fun b => by
      have h := congrArg Candidate.q heq
      rw [h]
      simp
    exact ⟨htag, congrArg Candidate.reach heq, congrArg Candidate.cls heq, congrArg Candidate.average heq,
      congrArg Candidate.backlog heq, hq, by rw [congrArg Candidate.stale heq, decide_eq_true_iff]⟩
  · rw [hcands]
    exact candidates_ascending s d
  · have hown := hvs.own_eq (by decide) b
    have hentry := hvs.neighbour_eq (by decide) b
    rw [← hown, ← hentry]
    simp [State.newFlight, State.bandCopies]
  · simp [State.newFlight, freshGrids]
  · have hj := j.isLt
    have hunit : soundingUnit v.profile.soundingUnits j.val = true ↔ 48 ≤ j.val + s.profile.soundingUnits := by
      rw [soundingUnit, decide_eq_true_iff, hprofile]
      omega
    exact (freshGrids_ul _ j).trans (if_congr hunit rfl rfl)
  · rw [State.newFlight]
    simp only [hrange, hctx]
  · rw [State.newFlight]
    simp only [hsound, hctx]
    rfl
  · rw [ht, setFlight_ctx, setRefreshPtr_ctx, ofFn_ctx, hctx, hrange, hsound]
    simp [Context.chosen]
  · rw [ht, setFlight_refreshPtr, setRefreshPtr_refreshPtr, hsound, hrefresh]
  · have hw := tested_of_stale (hstale.mp h)
    refine ⟨?_, ?_⟩
    · rw [ht, State.raised, setFlight_flags, setRefreshPtr_flags, setContexts_flags, hw]
      exact raise_raised _ _ _ (.inl rfl)
    · rw [ht, setFlight_inFlight, setRefreshPtr_inFlight, setContexts_inFlight, hw, raiseArithmetic,
        (raise_keeps _ _).inFlight_eq (by decide), setInFlight_inFlight, setInFlight_inFlight]
      decide
  · have hnone : v.anyStale = false := by
      rw [← Bool.not_eq_true, ← hstale]
      rintro ⟨d, c, hc, hst⟩
      rw [h d c hc] at hst
      cases hst
    have hw := tested_of_fresh hnone
    refine ⟨?_, ?_, ?_⟩
    · rw [ht, setFlight_flags, setRefreshPtr_flags, setContexts_flags, hw, hv]
      rfl
    · rw [ht, setFlight_txQueue, setRefreshPtr_txQueue, setContexts_txQueue, hw, hv]
      rfl
    · rw [ht, setFlight_inFlight, setRefreshPtr_inFlight, setContexts_inFlight, hw]
      rfl
  · exact (hvs.mono (by decide)).andThen hkeep (by decide)

end Sys2Proof.Machine
end

section
/-! PLACEMENT_COMPLETION: the composed list and its hand-over (R127 to R131, R137, R138). -/
namespace Sys2Proof.Machine

/-! ### The pieces of a list -/

theorem cutList_flatten {α : Type} (n : Nat) (xs : List α) : (cutList n xs).flatten = xs := by
  induction n generalizing xs with
  | zero => simp [cutList]
  | succ n ih =>
    rw [cutList]
    split
    · simp
    · rw [List.flatten_cons, ih, List.take_append_drop]

theorem cutList_length_le {α : Type} {n : Nat} {xs : List α} (h : xs.length ≤ n) : ∀ x ∈ cutList n xs, x.length ≤ 15 := by
  induction n generalizing xs with
  | zero => simp [cutList, Nat.le_zero.mp h]
  | succ n ih =>
    rw [cutList]
    split
    · next hle => simpa using hle
    · intro x hx
      rcases List.mem_cons.mp hx with rfl | hx
      · exact List.length_take_le _ _
      · exact ih (by rw [List.length_drop]; omega) x hx

theorem cutList_ne_nil {α : Type} {n : Nat} {xs : List α} (h : xs ≠ []) : ∀ x ∈ cutList n xs, x ≠ [] := by
  induction n generalizing xs with
  | zero => simpa [cutList] using h
  | succ n ih =>
    rw [cutList]
    split
    · simpa using h
    · next hlong =>
      intro x hx
      rcases List.mem_cons.mp hx with rfl | hx
      · simpa using h
      · exact ih (by simpa using Nat.lt_of_not_le hlong) x hx

theorem getElem?_singleton_eq {α : Type} {ys piece : List α} {k : Nat} (hle : ys.length ≤ 15) (hk : [ys][k]? = some piece) :
    piece = (ys.drop (15 * k)).take 15 := by
  cases k with
  | zero => rw [← Option.some.inj hk, Nat.mul_zero, List.drop_zero, List.take_of_length_le hle]
  | succ k => simp at hk

theorem cutList_getElem? {α : Type} {n : Nat} {xs : List α} (h : xs.length ≤ n) {k : Nat} {piece : List α}
    (hk : (cutList n xs)[k]? = some piece) : piece = (xs.drop (15 * k)).take 15 := by
  induction n generalizing xs k with
  | zero => exact getElem?_singleton_eq (h.trans (by decide)) hk
  | succ n ih =>
    rw [cutList] at hk
    split at hk
    · next hle => exact getElem?_singleton_eq hle hk
    · cases k with
      | zero => rw [← Option.some.inj hk, Nat.mul_zero, List.drop_zero]
      | succ k => rw [ih (by rw [List.length_drop]; omega) hk, List.drop_drop, Nat.mul_succ, Nat.add_comm]

/-! ### What a completion computes -/

theorem tagValid_iff (s : State) (g : Tag) : s.tagValid g = true ↔ s.slotOf g ≠ none := Option.isSome_iff_ne_none

theorem unmetFar_iff (f : Flight) (s : State) : f.unmetFar s = true ↔ ∃ d, ∃ c ∈ f.candidates.at d,
    c.reach = .far ∧ s.slotOf c.tag ≠ none ∧ ∀ g ∈ f.grants, g.dir = d → g.slot ≠ c.slot := by
  have hdir : ∀ {P : Direction → Prop}, (∃ d ∈ [Direction.dl, Direction.ul], P d) ↔ ∃ d, P d := fun {P} =>
    ⟨fun ⟨d, _, h⟩ => ⟨d, h⟩, fun ⟨d, h⟩ => ⟨d, by cases d <;> simp, h⟩⟩
  rw [Flight.unmetFar, List.any_eq_true, hdir]
  refine exists_congr fun d => ?_
  rw [List.any_eq_true]
  refine exists_congr fun c => and_congr_right fun _ => ?_
  simp only [Bool.and_eq_true, decide_eq_true_iff, tagValid_iff, Bool.not_eq_true', List.any_eq_false, not_and, and_assoc]

theorem farOnBand_iff (entries : List ListEntry) (b : Band) : farOnBand entries b = true ↔
    ∃ g, ListEntry.data g ∈ entries ∧ g.reach = .far ∧ g.band = b := by
  rw [farOnBand, List.any_eq_true]
  constructor
  · rintro ⟨e, he, h⟩
    cases e with
    | data g => exact ⟨g, he, by simpa using h⟩
    | range g => cases h
    | sound g u => cases h
  · rintro ⟨g, hg, h⟩
    exact ⟨_, hg, by simpa using h⟩

theorem carryRecords_keep (s : State) (n : Interval) (r : Record) :
    (!(decide (r.interval = n) && !s.tagValid r.tag)) = (decide (r.interval ≠ n) || (s.slotOf r.tag).isSome) := by
  rw [Bool.not_and, Bool.not_not, decide_not]
  rfl

/-! ### Finishing what is left -/

theorem stage_of_ended {s : State} {f : Flight} (hf : s.flight = some f) (h : engineMove s = .ended) : f.stage = .ended := by
  unfold engineMove at h
  rw [hf] at h
  dsimp only at h
  split at h
  · cases h
  · cases h
  · split at h
    · cases h
    · split at h <;> cases h
  · cases h
  · cases h
  · split at h
    · cases h
    · split at h
      · cases h
      · split at h <;> cases h
  · assumption

theorem finishPlacing_ended {n : Nat} {s : State} (h : s.movesLeft < n) {f : Flight} (hf : s.flight = some f) :
    ∃ g, (finishPlacing n s).flight = some g ∧ g.stage = .ended ∧ g.target = f.target := by
  induction n generalizing s f with
  | zero => exact absurd h (Nat.not_lt_zero _)
  | succ n ih =>
    have moved : ∀ {t : State}, (engineMove s).state = some t →
        ∃ g, (finishPlacing n t).flight = some g ∧ g.stage = .ended ∧ g.target = f.target := fun {t} e => by
      obtain ⟨g, hg, hm⟩ := flight_moves hf e
      have hlt := movesLeft_lt e
      obtain ⟨k, hk, hst, htarget⟩ := ih (s := t) (by omega) hg
      exact ⟨k, hk, hst, htarget.trans (by cases hm <;> rfl)⟩
    rw [finishPlacing]
    cases he : engineMove s with
    | quiet t => exact moved (by rw [he]; rfl)
    | granted r t => exact moved (by rw [he]; rfl)
    | stopped r t => exact moved (by rw [he]; rfl)
    | ended =>
      exact ⟨f, hf, stage_of_ended hf he, rfl⟩

theorem finishPlacing_of_ended {s : State} (h : engineMove s = .ended) (n : Nat) : finishPlacing n s = s := by
  cases n with
  | zero => rfl
  | succ n => rw [finishPlacing, h]

theorem exec_placementCompletion {s : State} {f : Flight} (hs : s.agenda = []) (hf : s.flight = some f) :
    exec .placementCompletion s = .next (completePlacement (finishPlacing movesBound (settleCloses s))) := by
  rw [exec, execPlacementCompletion, settle_of_empty hs, hf]
  rfl

theorem settleCloses_of_none {s : State} (h : s.closesDue = []) : settleCloses s = s := by
  have hself : s.setClosesDue [] = s := by rw [← h]; rfl
  rw [settleCloses, h, hself, List.foldl_nil]

/-! ### The hand-over -/

theorem listTelegrams_length (partner : Station) (t : Interval) (pieces : List (List ListEntry)) :
    (listTelegrams partner t pieces).length = pieces.length := by
  rw [listTelegrams, List.length_map, List.length_zipIdx]

/-- The hand-over to a queue with room for the telegrams. -/
theorem handOver_of_room {s : State} {t : Interval} {entries : List ListEntry} (ha : s.acting = true)
    (hroom : s.txQueue.length + (listPieces entries).length ≤ 24) : handOver t entries s =
      (((s.setRecords (carryRecords s t entries)).setRegister
        (s.register ++ [{ interval := t, telegrams := List.replicate (listPieces entries).length .queued, late := false }])
        ).setOpenIntervals (s.opened t)).setTxQueue
        (s.txQueue ++ listTelegrams s.profile.partner t (listPieces entries)) := by
  have hlist : (listPieces entries).map (fun _ => ListState.queued) = List.replicate (listPieces entries).length .queued :=
    List.map_const' ..
  rw [handOver, hlist]
  exact offers_room ha (by rw [listTelegrams_length]; exact hroom)

/-! ### The claim controller -/

theorem idleAfter_due (far : Bool) (c : OwnClaim) :
    (idleAfter far c).2 = (decide (c.state = .held) && !far && decide (127 ≤ c.idle)) := by
  rw [idleAfter]
  split
  · next hst =>
    cases far with
    | true => simp
    | false =>
      by_cases hidle : 127 ≤ c.idle
      · simp [hst, hidle]
      · simp [hidle]
  · next hst => simp [hst]

theorem idleAfter_record (far : Bool) (c : OwnClaim) : (idleAfter far c).1 =
    if c.state = .held then
      if far then { c with idle := 0 } else if 127 ≤ c.idle then c else { c with idle := c.idle + 1 }
    else c := by
  rw [idleAfter]
  split
  · cases far with
    | true => rfl
    | false => by_cases hidle : 127 ≤ c.idle <;> simp [hidle]
  · rfl

/-- What the claim controller does at a completion: both counters, then the decision, or the idle releases before it. -/
theorem claimCompletion_eq (unmet : Bool) (far : Band → Bool) {s t : State} (hown : ∀ b, t.own b = s.own b)
    (hdemand : t.farDemand = s.farDemand) : claimCompletion unmet far t =
    let counted := (t.setFarDemand (if unmet then min 8 (s.farDemand + 1) else 0)).setClaims (Vector.ofFn fun b =>
      if (s.own b).state = .held then
        if far b then { s.own b with idle := 0 }
        else if 127 ≤ (s.own b).idle then s.own b else { s.own b with idle := (s.own b).idle + 1 }
      else s.own b)
    let due := allBands.filter fun b => decide ((s.own b).state = .held) && !far b && decide (127 ≤ (s.own b).idle)
    if due = [] then decideClaim counted else counted.setAgenda (due.map Due.idleRelease ++ [.newClaim]) := by
  simp only [claimCompletion, idleAfter_due, updateIdle, updateDemand, idleAfter_record, setFarDemand_own, hown, hdemand]

theorem composePlacement_eq {f : Flight} {s handed claimed : State} {entries : List ListEntry}
    (hentries : composedList s f = entries) (hhanded : handOver f.target entries s = handed)
    (hclaimed : claimCompletion (f.unmetFar s) (farOnBand entries) handed = claimed) :
    composePlacement f s = ((claimed.setCause s.inFlight).setInFlight 0).setFlight none := by
  have hflight : claimed.inFlight = s.inFlight := by
    rw [← hclaimed, (claimCompletion_keeps _ _ _).inFlight_eq (by decide), ← hhanded,
      (handOver_keeps _ _ _).inFlight_eq (by decide)]
  rw [composePlacement, hentries, hhanded, hclaimed, hflight]

/-- Composing leaves the number and what is due alone. -/
theorem composePlacement_frame (f : Flight) (s : State) :
    Keeps (.openIntervals :: .agenda :: .cause :: .inFlight :: .flight :: claiming) s (composePlacement f s) := by
  rw [composePlacement]
  exact (((((handOver_keeps _ _ s).mono (by decide)).andThen (claimCompletion_keeps _ _ _) (by decide)).andThen
    (setCause_keeps _ _) (by decide)).andThen (setInFlight_keeps _ _) (by decide)).andThen (setFlight_keeps _ _) (by decide)

theorem completePlacement_of_flight {s : State} {f : Flight} (hf : s.flight = some f) :
    completePlacement s = catchUp f.target (composePlacement f s) := by rw [completePlacement, hf]

/-- What follows at once after a completion, told from the state before it. -/
theorem catchUp_of_keeps {l : List Field} {s t : State} (hk : Keeps l s t) (hi : .interval ∉ l) (hd : .deadlinesDue ∉ l)
    (n : Interval) : catchUp n t = if 4 ≤ age s.interval n ∧ age s.interval n ≤ 4093 then
      timeoutClose n .ul (timeoutClose n .dl
        (if n ∈ s.deadlinesDue then deadline n (t.setDeadlinesDue (s.deadlinesDue.erase n)) else t))
      else t := by
  simp only [catchUp, takeDeadline, overdue, hk.interval_eq hi, hk.deadlinesDue_eq hd, decide_eq_true_iff,
    List.contains_iff_mem]

/-- Settles O42: the list and what each block receives, placing finished first, and a late completion. -/
theorem placementCompletes : Obligations.PlacementCompletes := by
  refine ⟨fun s hs hf => ?_, fun s f hs hf hlaw => ?_, fun s f hs hcloses ha hf hst => ?_, fun entries => ?_,
    fun s n entries => ?_, unmetFar_iff, farOnBand_iff⟩
  · rw [exec, execPlacementCompletion, settle_of_empty hs, hf]
    rfl
  · have hsettle := settleCloses_keeps s
    have hplace := finishPlacing_keeps movesBound (settleCloses s)
    have hf' : (settleCloses s).flight = some f := (hsettle.flight_eq (by decide)).trans hf
    have hlaw' : GridLaw (settleCloses s) := gridLaw_of_keeps hsettle (by decide) hlaw
    obtain ⟨g, hg, hended, htarget⟩ := finishPlacing_ended (movesLeft_lt_bound hlaw') hf'
    obtain ⟨u, hu⟩ : ∃ u, u = finishPlacing movesBound (settleCloses s) := ⟨_, rfl⟩
    rw [← hu] at hg hplace
    have hagenda : u.agenda = [] := (hplace.agenda_eq (by decide)).trans ((hsettle.agenda_eq (by decide)).trans hs)
    have hdue : u.closesDue = [] := (hplace.closesDue_eq (by decide)).trans (settleCloses_closesDue s)
    refine ⟨u, g, hu, hg, hended, htarget, hagenda, hdue, ?_⟩
    rw [exec_placementCompletion hs hf, exec_placementCompletion hagenda hg, settleCloses_of_none hdue,
      finishPlacing_of_ended (engineMove_ended hg hended), hu]
  · intro entries pieces hroom handed counted due claimed done overtaken
    have hhanded : handOver f.target entries s = handed := handOver_of_room ha hroom
    have hown : ∀ b, handed.own b = s.own b := fun b => by
      rw [setTxQueue_own, setOpenIntervals_own, setRegister_own, setRecords_own]
    have hdemand : handed.farDemand = s.farDemand := by
      rw [setTxQueue_farDemand, setOpenIntervals_farDemand, setRegister_farDemand, setRecords_farDemand]
    clear_value handed
    have hclaimed : claimCompletion (f.unmetFar s) (farOnBand entries) handed = claimed :=
      claimCompletion_eq _ _ hown hdemand
    have hdone : composePlacement f s = done := composePlacement_eq (entries := entries) rfl hhanded hclaimed
    rw [exec_placementCompletion hs hf, settleCloses_of_none hcloses, finishPlacing_of_ended (engineMove_ended hf hst),
      completePlacement_of_flight hf, catchUp_of_keeps (composePlacement_frame f s) (by decide) (by decide), hdone]
  · have hfuel : entries.length ≤ entries.length := le_refl _
    exact ⟨cutList_flatten _ entries, cutList_length_le hfuel, fun h => by rw [h]; rfl, cutList_ne_nil,
      fun _ _ => cutList_getElem? hfuel⟩
  · have hentry : ∀ (r : Record) (e : ListEntry), e.isOf r = (match e with
        | .data g => decide (g.dir = r.dir ∧ g.tag = r.tag)
        | .range _ => false
        | .sound _ _ => false) := fun r e => by
      cases e <;> simp [ListEntry.isOf]
    rw [carryRecords]
    simp only [carryRecords_keep, hentry] <;> rfl

end Sys2Proof.Machine
end
